-- ==== Sys2Proof/Word.lean ====
section
/-! DEFINITION. The values EDCORE moves: bytes, 32-bit words, 32-byte strings, and the residues of
the field GF(2^255 - 19) (spec/00_scope.md R7, R16, R17). -/

namespace Sys2Proof

/-- One byte of the host window. -/
abbrev Byte := BitVec 8

/-- A 32-bit word: a command word, the STATUS word, the value of a host access (R70, R28, R52). -/
abbrev Word := BitVec 32

/-- A 32-byte string `s`, held as the 256-bit number `int(s)`: byte `i` of the string is bits
`8*i+7 .. 8*i`, so bit `k` of the string (R16) is bit `k` here, and `int`, `le32` (R17) are
`BitVec.toNat` and `BitVec.ofNat 256`. -/
abbrev Bytes32 := BitVec 256

/-- The prime p = 2^255 - 19 (R7), written out as a numeral. -/
abbrev fieldPrime : Nat :=
  57896044618658097711785492504343953926634992332820282019728792003956564819949

/-- The numeral above is the prime the spec names (R7). -/
theorem fieldPrime_eq : fieldPrime = 2 ^ 255 - 19 := by decide

/-- A field element: an integer `0 <= a < p` (R7). `+`, `-`, `*` on `Fp` are those of `Fin p`, that
is, the integer operation taken modulo p. -/
abbrev Fp := Fin fieldPrime

/-- The residue of a natural number modulo p. -/
def Fp.ofNat (n : Nat) : Fp := ⟨n % fieldPrime, Nat.mod_lt _ (by decide)⟩

end Sys2Proof
end

