-- ==== Sys2Proof/Config.lean ====
section
/-! DEFINITION. The implementation parameters of spec/00_scope.md R14. The spec leaves no value of any
instruction open (spec/60_exceptions.md R230), so there is no free value here. `BASE` (R50) is an
argument of `Sys2Proof.Machine.windowOffset`, and `LIMB_FORMAT` (R23) is unobservable and absent. -/

namespace Sys2Proof.Config

/-- `NF`: field registers f0..f15 (R14, R22). -/
abbrev numFieldRegs : Nat := 16
/-- `NP`: point registers p0..p7 (R14, R29). -/
abbrev numPointRegs : Nat := 8
/-- `NB`: byte buffers b0..b3 (R14, R25). -/
abbrev numBuffers : Nat := 4
/-- Bytes in one buffer (R25). -/
abbrev bufferBytes : Nat := 32
/-- `WINDOW`: bytes of the host-visible window (R14, R50). -/
abbrev windowBytes : Nat := 256
/-- Window offset of CMD (R51). -/
abbrev cmdOffset : Nat := 0x00
/-- Window offset of STATUS (R51). -/
abbrev statusOffset : Nat := 0x04
/-- Window offset of byte 0 of b0; byte i of buffer k is at `0x80 + 32*k + i` (R51). -/
abbrev bufferBase : Nat := 0x80
/-- `TBL_ROWS`: rows of the fixed-base table (R14, R173). -/
abbrev tableRows : Nat := 32
/-- `TBL_COLS`: entries of one row (R14, R173). -/
abbrev tableCols : Nat := 8
/-- Digits of the signed radix-16 recoding, and of the unsigned one of `SMULV` (R171, R176). -/
abbrev scalarDigits : Nat := 64

end Sys2Proof.Config
end

