-- ==== Sys2Proof/Syntax.lean ====
section
/-! DEFINITION. The command word's fields, the 35 commands of spec/30_encoding.md R74, one constructor a
row, the operand layouts their formats are made of (R71), and the pseudo-instructions (R79). -/

namespace Sys2Proof

/-- Index of a field register f0..f15 (R22). -/
abbrev FReg := Fin Config.numFieldRegs
/-- Index of a point register p0..p7 (R29). -/
abbrev PReg := Fin Config.numPointRegs
/-- Index of a byte buffer b0..b3 (R25). -/
abbrev BReg := Fin Config.numBuffers

/-- The variant tag of a point representation (spec/10_state.md R30). -/
inductive Variant
  | extended
  | projective
  | completed
  | cached
  deriving DecidableEq, Repr

/-- The 2-bit code of a variant in the `v` field of `PCVT` (R30, R73). -/
def Variant.code : Variant → BitVec 2
  | .extended => 0
  | .projective => 1
  | .completed => 2
  | .cached => 3

/-- The variant of a 2-bit code; all four codes decode (R73). -/
def Variant.ofCode (v : BitVec 2) : Variant :=
  if v = 0 then .extended else if v = 1 then .projective else if v = 2 then .completed else .cached

/-- The fields of a command word (R70): op[31:24], a[23:20], b[19:16], c[15:12], imm[11:0]. -/
structure Fields where
  op : BitVec 8
  a : BitVec 4
  b : BitVec 4
  c : BitVec 4
  imm : BitVec 12
  deriving DecidableEq, Repr

/-- What an opcode uses a register field for (R70, R74): a register file it indexes, or nothing
(the field must be 0). -/
inductive FieldUse
  | unused
  | fieldReg
  | pointReg
  | buffer
  deriving DecidableEq, Repr

/-- The layout of one opcode's operands: its use of a, b, c and how many low bits of `imm` it uses
(R71, R73). -/
structure Shape where
  a : FieldUse
  b : FieldUse
  c : FieldUse
  immBits : Nat
  deriving DecidableEq, Repr

/-- The commands (R74), operands in the order destination, first source, second source, immediate
(R78). -/
inductive Instr
  /- system commands, spec/43_system.md -/
  | nop
  | wipe
  | cset (i : Bool)
  | bldl (bd : BReg)
  /- field commands, spec/40_field.md -/
  | fzero (fd : FReg)
  | fone (fd : FReg)
  | fmov (fd fs : FReg)
  | fadd (fd fs1 fs2 : FReg)
  | fsub (fd fs1 fs2 : FReg)
  | fneg (fd fs : FReg)
  | fmul (fd fs1 fs2 : FReg)
  | fsq (fd fs : FReg)
  | fsq2 (fd fs : FReg)
  | finv (fd fs : FReg)
  | fcneg (fd fs : FReg)
  | fcsel (fd fs1 fs2 : FReg)
  | fisneg (fs : FReg)
  | fisnz (fs : FReg)
  | fenc (bd : BReg) (fs : FReg)
  | fdec (fd : FReg) (bs : BReg)
  /- group commands, spec/41_group.md -/
  | pident (pd : PReg)
  | pbase (pd : PReg)
  | pmov (pd ps : PReg)
  | pneg (pd ps : PReg)
  | padd (pd ps1 ps2 : PReg)
  | psub (pd ps1 ps2 : PReg)
  | pdbl (pd ps : PReg)
  | pcvt (pd ps : PReg) (v : Variant)
  | pgetc (fd : FReg) (ps : PReg) (k : Fin 4)
  | penc (bd : BReg) (ps : PReg)
  | pdec (pd : PReg) (bs : BReg)
  | pdecnv (pd : PReg) (bs : BReg)
  | padde (pd ps1 ps2 : PReg)
  /- scalar commands, spec/42_scalar.md -/
  | smulb (pd : PReg) (bs : BReg)
  | smulv (pd ps : PReg) (bs : BReg)
  deriving DecidableEq, Repr

/-- The field registers a command reads (R100, R112), field b before field c. -/
def Instr.fieldSources : Instr → List FReg
  | .fmov _ fs => [fs]
  | .fadd _ fs1 fs2 => [fs1, fs2]
  | .fsub _ fs1 fs2 => [fs1, fs2]
  | .fneg _ fs => [fs]
  | .fmul _ fs1 fs2 => [fs1, fs2]
  | .fsq _ fs => [fs]
  | .fsq2 _ fs => [fs]
  | .finv _ fs => [fs]
  | .fcneg _ fs => [fs]
  | .fcsel _ fs1 fs2 => [fs1, fs2]
  | .fisneg fs => [fs]
  | .fisnz fs => [fs]
  | .fenc _ fs => [fs]
  | .nop => []
  | .wipe => []
  | .cset _ => []
  | .bldl _ => []
  | .fzero _ => []
  | .fone _ => []
  | .fdec _ _ => []
  | .pident _ => []
  | .pbase _ => []
  | .pmov _ _ => []
  | .pneg _ _ => []
  | .padd _ _ _ => []
  | .psub _ _ _ => []
  | .pdbl _ _ => []
  | .pcvt _ _ _ => []
  | .pgetc _ _ _ => []
  | .penc _ _ => []
  | .pdec _ _ => []
  | .pdecnv _ _ => []
  | .padde _ _ _ => []
  | .smulb _ _ => []
  | .smulv _ _ _ => []

/-- The point registers a command reads (R130, R176), field b before field c. -/
def Instr.pointSources : Instr → List PReg
  | .pmov _ ps => [ps]
  | .pneg _ ps => [ps]
  | .padd _ ps1 ps2 => [ps1, ps2]
  | .psub _ ps1 ps2 => [ps1, ps2]
  | .pdbl _ ps => [ps]
  | .pcvt _ ps _ => [ps]
  | .pgetc _ ps _ => [ps]
  | .penc _ ps => [ps]
  | .padde _ ps1 ps2 => [ps1, ps2]
  | .smulv _ ps _ => [ps]
  | .nop => []
  | .wipe => []
  | .cset _ => []
  | .bldl _ => []
  | .fzero _ => []
  | .fone _ => []
  | .fmov _ _ => []
  | .fadd _ _ _ => []
  | .fsub _ _ _ => []
  | .fneg _ _ => []
  | .fmul _ _ _ => []
  | .fsq _ _ => []
  | .fsq2 _ _ => []
  | .finv _ _ => []
  | .fcneg _ _ => []
  | .fcsel _ _ _ => []
  | .fisneg _ => []
  | .fisnz _ => []
  | .fenc _ _ => []
  | .fdec _ _ => []
  | .pident _ => []
  | .pbase _ => []
  | .pdec _ _ => []
  | .pdecnv _ _ => []
  | .smulb _ _ => []

/-- The assembler's pseudo-instructions (R79). They add no opcode. -/
inductive Pseudo
  | fcmov (fd fs : FReg)
  | cclr
  | pgetx (fd : FReg) (ps : PReg)
  | pgety (fd : FReg) (ps : PReg)
  | pgetz (fd : FReg) (ps : PReg)
  | pgett (fd : FReg) (ps : PReg)
  | pdble (pd ps : PReg)
  | psube (pd ps1 ps2 pt : PReg)
  deriving DecidableEq, Repr

/-- The expansion column of R79. -/
def Pseudo.expand : Pseudo → List Instr
  | .fcmov fd fs => [.fcsel fd fd fs]
  | .cclr => [.cset false]
  | .pgetx fd ps => [.pgetc fd ps 0]
  | .pgety fd ps => [.pgetc fd ps 1]
  | .pgetz fd ps => [.pgetc fd ps 2]
  | .pgett fd ps => [.pgetc fd ps 3]
  | .pdble pd ps => [.pdbl pd ps, .pcvt pd pd .extended]
  | .psube pd ps1 ps2 pt => [.pcvt pt ps2 .cached, .psub pd ps1 pt, .pcvt pd pd .extended]

end Sys2Proof
end

