-- ==== Sys2Proof/WellFormed.lean ====
section
/-! DEFINITION. When the fields of a word are a command of the table (spec/30_encoding.md R71, R72,
R74, R75). An `Instr` carries its register indices as `Fin`, so every term of `Instr` is well formed;
the checks below are those of the raw fields, and they are what the decoder refuses by name. -/

namespace Sys2Proof

/-- Why a word is no command (R75): each reason gives the same result code, ILLEGAL. -/
inductive Reject
  /-- The opcode is none of the 35 of R74. -/
  | unassignedOpcode
  /-- A field, or a bit of `imm`, that the opcode does not use is not 0 (R71). -/
  | nonzeroUnusedField
  /-- A register index lies outside its file (R72): P above 7, B above 3. -/
  | indexOutsideFile
  deriving DecidableEq, Repr

/-- The operand layout of each assigned opcode: the columns a, b, c, imm of R74. -/
def shapeOf (op : BitVec 8) : Option Shape :=
  match op with
  | 0x00#8 => some ⟨.unused, .unused, .unused, 0⟩        -- NOP
  | 0x01#8 => some ⟨.unused, .unused, .unused, 0⟩        -- WIPE
  | 0x02#8 => some ⟨.unused, .unused, .unused, 1⟩        -- CSET
  | 0x03#8 => some ⟨.buffer, .unused, .unused, 0⟩        -- BLDL
  | 0x10#8 => some ⟨.fieldReg, .unused, .unused, 0⟩      -- FZERO
  | 0x11#8 => some ⟨.fieldReg, .unused, .unused, 0⟩      -- FONE
  | 0x12#8 => some ⟨.fieldReg, .fieldReg, .unused, 0⟩    -- FMOV
  | 0x13#8 => some ⟨.fieldReg, .fieldReg, .fieldReg, 0⟩  -- FADD
  | 0x14#8 => some ⟨.fieldReg, .fieldReg, .fieldReg, 0⟩  -- FSUB
  | 0x15#8 => some ⟨.fieldReg, .fieldReg, .unused, 0⟩    -- FNEG
  | 0x16#8 => some ⟨.fieldReg, .fieldReg, .fieldReg, 0⟩  -- FMUL
  | 0x17#8 => some ⟨.fieldReg, .fieldReg, .unused, 0⟩    -- FSQ
  | 0x18#8 => some ⟨.fieldReg, .fieldReg, .unused, 0⟩    -- FSQ2
  | 0x19#8 => some ⟨.fieldReg, .fieldReg, .unused, 0⟩    -- FINV
  | 0x1A#8 => some ⟨.fieldReg, .fieldReg, .unused, 0⟩    -- FCNEG
  | 0x1B#8 => some ⟨.fieldReg, .fieldReg, .fieldReg, 0⟩  -- FCSEL
  | 0x1C#8 => some ⟨.unused, .fieldReg, .unused, 0⟩      -- FISNEG
  | 0x1D#8 => some ⟨.unused, .fieldReg, .unused, 0⟩      -- FISNZ
  | 0x1E#8 => some ⟨.buffer, .fieldReg, .unused, 0⟩      -- FENC
  | 0x1F#8 => some ⟨.fieldReg, .buffer, .unused, 0⟩      -- FDEC
  | 0x20#8 => some ⟨.pointReg, .unused, .unused, 0⟩      -- PIDENT
  | 0x21#8 => some ⟨.pointReg, .unused, .unused, 0⟩      -- PBASE
  | 0x22#8 => some ⟨.pointReg, .pointReg, .unused, 0⟩    -- PMOV
  | 0x23#8 => some ⟨.pointReg, .pointReg, .unused, 0⟩    -- PNEG
  | 0x24#8 => some ⟨.pointReg, .pointReg, .pointReg, 0⟩  -- PADD
  | 0x25#8 => some ⟨.pointReg, .pointReg, .pointReg, 0⟩  -- PSUB
  | 0x26#8 => some ⟨.pointReg, .pointReg, .unused, 0⟩    -- PDBL
  | 0x27#8 => some ⟨.pointReg, .pointReg, .unused, 2⟩    -- PCVT
  | 0x28#8 => some ⟨.fieldReg, .pointReg, .unused, 2⟩    -- PGETC
  | 0x29#8 => some ⟨.buffer, .pointReg, .unused, 0⟩      -- PENC
  | 0x2A#8 => some ⟨.pointReg, .buffer, .unused, 0⟩      -- PDEC
  | 0x2B#8 => some ⟨.pointReg, .buffer, .unused, 0⟩      -- PDECNV
  | 0x2C#8 => some ⟨.pointReg, .pointReg, .pointReg, 0⟩  -- PADDE
  | 0x30#8 => some ⟨.pointReg, .buffer, .unused, 0⟩      -- SMULB
  | 0x31#8 => some ⟨.pointReg, .pointReg, .buffer, 0⟩    -- SMULV
  | _ => none

/-- The field is 0 where the opcode does not use it (R71). -/
def FieldUse.zeroOk (u : FieldUse) (x : BitVec 4) : Bool :=
  match u with
  | .unused => x == 0
  | _ => true

/-- The field's index lies inside the file it names (R72). -/
def FieldUse.indexOk (u : FieldUse) (x : BitVec 4) : Bool :=
  match u with
  | .unused => true
  | .fieldReg => true
  | .pointReg => decide (x.toNat < Config.numPointRegs)
  | .buffer => decide (x.toNat < Config.numBuffers)

/-- Every must-be-zero field, and every bit of `imm` above the used ones, is 0 (R71, R73). -/
def Shape.zerosOk (sh : Shape) (x : Fields) : Bool :=
  sh.a.zeroOk x.a && sh.b.zeroOk x.b && sh.c.zeroOk x.c && decide (x.imm.toNat < 2 ^ sh.immBits)

/-- Every register index lies inside its file (R72). -/
def Shape.indexesOk (sh : Shape) (x : Fields) : Bool :=
  sh.a.indexOk x.a && sh.b.indexOk x.b && sh.c.indexOk x.c

/-- The first reason, if any, why the fields are no command (R75). -/
def Fields.reject? (x : Fields) : Option Reject :=
  match shapeOf x.op with
  | none => some .unassignedOpcode
  | some sh =>
    if sh.zerosOk x = false then some .nonzeroUnusedField
    else if sh.indexesOk x = false then some .indexOutsideFile
    else none

/-- The fields are a command of R74. -/
def Fields.wellFormed (x : Fields) : Bool := x.reject?.isNone

end Sys2Proof
end

