-- ==== Sys2Proof/Decode.lean ====
section
/-! DEFINITION. From a command word to a command and back (spec/30_encoding.md R70 to R76). `decode` is
total on 32-bit words and depends on no state (R76, R77); a word that is no command is refused by the
reason it is none (R75). `encode` is written from the same table. -/

namespace Sys2Proof

/-- The fields of a word (R70). -/
def Fields.ofWord (w : Word) : Fields where
  op := w.extractLsb' 24 8
  a := w.extractLsb' 20 4
  b := w.extractLsb' 16 4
  c := w.extractLsb' 12 4
  imm := w.extractLsb' 0 12

/-- The word of the fields (R70). -/
def Fields.toWord (x : Fields) : Word := x.op ++ x.a ++ x.b ++ x.c ++ x.imm

/-- A 4-bit field as an F index: all 16 values are legal (R72). -/
def fIndex (x : BitVec 4) : FReg := ⟨x.toNat, x.isLt⟩

/-- A 4-bit field as a P index. `Fields.reject?` has already refused every field above 7 (R72), so the
remainder changes nothing. -/
def pIndex (x : BitVec 4) : PReg := ⟨x.toNat % 8, Nat.mod_lt _ (by decide)⟩

/-- A 4-bit field as a B index. `Fields.reject?` has already refused every field above 3 (R72), so the
remainder changes nothing. -/
def bIndex (x : BitVec 4) : BReg := ⟨x.toNat % 4, Nat.mod_lt _ (by decide)⟩

/-- The command of fields that are well formed (R74). It answers `none` exactly on an unassigned opcode. -/
def Fields.build (x : Fields) : Option Instr :=
  match x.op with
  | 0x00#8 => some .nop
  | 0x01#8 => some .wipe
  | 0x02#8 => some (.cset (x.imm.getLsbD 0))
  | 0x03#8 => some (.bldl (bIndex x.a))
  | 0x10#8 => some (.fzero (fIndex x.a))
  | 0x11#8 => some (.fone (fIndex x.a))
  | 0x12#8 => some (.fmov (fIndex x.a) (fIndex x.b))
  | 0x13#8 => some (.fadd (fIndex x.a) (fIndex x.b) (fIndex x.c))
  | 0x14#8 => some (.fsub (fIndex x.a) (fIndex x.b) (fIndex x.c))
  | 0x15#8 => some (.fneg (fIndex x.a) (fIndex x.b))
  | 0x16#8 => some (.fmul (fIndex x.a) (fIndex x.b) (fIndex x.c))
  | 0x17#8 => some (.fsq (fIndex x.a) (fIndex x.b))
  | 0x18#8 => some (.fsq2 (fIndex x.a) (fIndex x.b))
  | 0x19#8 => some (.finv (fIndex x.a) (fIndex x.b))
  | 0x1A#8 => some (.fcneg (fIndex x.a) (fIndex x.b))
  | 0x1B#8 => some (.fcsel (fIndex x.a) (fIndex x.b) (fIndex x.c))
  | 0x1C#8 => some (.fisneg (fIndex x.b))
  | 0x1D#8 => some (.fisnz (fIndex x.b))
  | 0x1E#8 => some (.fenc (bIndex x.a) (fIndex x.b))
  | 0x1F#8 => some (.fdec (fIndex x.a) (bIndex x.b))
  | 0x20#8 => some (.pident (pIndex x.a))
  | 0x21#8 => some (.pbase (pIndex x.a))
  | 0x22#8 => some (.pmov (pIndex x.a) (pIndex x.b))
  | 0x23#8 => some (.pneg (pIndex x.a) (pIndex x.b))
  | 0x24#8 => some (.padd (pIndex x.a) (pIndex x.b) (pIndex x.c))
  | 0x25#8 => some (.psub (pIndex x.a) (pIndex x.b) (pIndex x.c))
  | 0x26#8 => some (.pdbl (pIndex x.a) (pIndex x.b))
  | 0x27#8 => some (.pcvt (pIndex x.a) (pIndex x.b) (Variant.ofCode (x.imm.setWidth 2)))
  | 0x28#8 => some (.pgetc (fIndex x.a) (pIndex x.b) (x.imm.setWidth 2).toFin)
  | 0x29#8 => some (.penc (bIndex x.a) (pIndex x.b))
  | 0x2A#8 => some (.pdec (pIndex x.a) (bIndex x.b))
  | 0x2B#8 => some (.pdecnv (pIndex x.a) (bIndex x.b))
  | 0x2C#8 => some (.padde (pIndex x.a) (pIndex x.b) (pIndex x.c))
  | 0x30#8 => some (.smulb (pIndex x.a) (bIndex x.b))
  | 0x31#8 => some (.smulv (pIndex x.a) (pIndex x.b) (bIndex x.c))
  | _ => none

/-- Decode a command word (R76). -/
def decode (w : Word) : Except Reject Instr :=
  let x := Fields.ofWord w
  match x.reject? with
  | some r => .error r
  | none =>
    match x.build with
    | some i => .ok i
    | none => .error .unassignedOpcode

/-- An F index as a 4-bit field. -/
def fField (r : FReg) : BitVec 4 := BitVec.ofNat 4 r.val
/-- A P index as a 4-bit field. -/
def pField (r : PReg) : BitVec 4 := BitVec.ofNat 4 r.val
/-- A B index as a 4-bit field. -/
def bField (r : BReg) : BitVec 4 := BitVec.ofNat 4 r.val
/-- The immediate of `CSET` (R73): imm[0], every other bit 0. -/
def boolField (i : Bool) : BitVec 12 := if i then 1 else 0

/-- The fields of a command: its row of R74. -/
def Instr.fields : Instr → Fields
  | .nop => ⟨0x00, 0, 0, 0, 0⟩
  | .wipe => ⟨0x01, 0, 0, 0, 0⟩
  | .cset i => ⟨0x02, 0, 0, 0, boolField i⟩
  | .bldl a => ⟨0x03, bField a, 0, 0, 0⟩
  | .fzero a => ⟨0x10, fField a, 0, 0, 0⟩
  | .fone a => ⟨0x11, fField a, 0, 0, 0⟩
  | .fmov a b => ⟨0x12, fField a, fField b, 0, 0⟩
  | .fadd a b c => ⟨0x13, fField a, fField b, fField c, 0⟩
  | .fsub a b c => ⟨0x14, fField a, fField b, fField c, 0⟩
  | .fneg a b => ⟨0x15, fField a, fField b, 0, 0⟩
  | .fmul a b c => ⟨0x16, fField a, fField b, fField c, 0⟩
  | .fsq a b => ⟨0x17, fField a, fField b, 0, 0⟩
  | .fsq2 a b => ⟨0x18, fField a, fField b, 0, 0⟩
  | .finv a b => ⟨0x19, fField a, fField b, 0, 0⟩
  | .fcneg a b => ⟨0x1A, fField a, fField b, 0, 0⟩
  | .fcsel a b c => ⟨0x1B, fField a, fField b, fField c, 0⟩
  | .fisneg b => ⟨0x1C, 0, fField b, 0, 0⟩
  | .fisnz b => ⟨0x1D, 0, fField b, 0, 0⟩
  | .fenc a b => ⟨0x1E, bField a, fField b, 0, 0⟩
  | .fdec a b => ⟨0x1F, fField a, bField b, 0, 0⟩
  | .pident a => ⟨0x20, pField a, 0, 0, 0⟩
  | .pbase a => ⟨0x21, pField a, 0, 0, 0⟩
  | .pmov a b => ⟨0x22, pField a, pField b, 0, 0⟩
  | .pneg a b => ⟨0x23, pField a, pField b, 0, 0⟩
  | .padd a b c => ⟨0x24, pField a, pField b, pField c, 0⟩
  | .psub a b c => ⟨0x25, pField a, pField b, pField c, 0⟩
  | .pdbl a b => ⟨0x26, pField a, pField b, 0, 0⟩
  | .pcvt a b v => ⟨0x27, pField a, pField b, 0, v.code.setWidth 12⟩
  | .pgetc a b k => ⟨0x28, fField a, pField b, 0, BitVec.ofNat 12 k.val⟩
  | .penc a b => ⟨0x29, bField a, pField b, 0, 0⟩
  | .pdec a b => ⟨0x2A, pField a, bField b, 0, 0⟩
  | .pdecnv a b => ⟨0x2B, pField a, bField b, 0, 0⟩
  | .padde a b c => ⟨0x2C, pField a, pField b, pField c, 0⟩
  | .smulb a b => ⟨0x30, pField a, bField b, 0, 0⟩
  | .smulv a b c => ⟨0x31, pField a, pField b, bField c, 0⟩

/-- The word of a command (R70, R74). -/
def encode (i : Instr) : Word := i.fields.toWord

/-- A command's fields pass every check of its row. It holds of every `Instr`, since the register
indices are `Fin`; the law is `Sys2Proof.Laws.Encoding.Statement`. -/
def Instr.wellFormed (i : Instr) : Bool := i.fields.wellFormed

/-- The command this decoder reads from a word given as a number of `nbits` bits, every bit above them 0:
the numbering of spec/opcode_table.json. A command is one 32-bit word with no byte order of its own
(R57 (c), R77), so the number is the word. -/
def decodeTableWord (nbits w : Nat) : Option Instr :=
  match decode (BitVec.ofNat 32 (w % 2 ^ nbits)) with
  | .ok i => some i
  | .error _ => none

/-! ## The opcode table as match and mask (R74) -/

/-- The mnemonic of a command's row (R74). -/
def Instr.mnemonic : Instr → String
  | .nop => "NOP"
  | .wipe => "WIPE"
  | .cset _ => "CSET"
  | .bldl _ => "BLDL"
  | .fzero _ => "FZERO"
  | .fone _ => "FONE"
  | .fmov _ _ => "FMOV"
  | .fadd _ _ _ => "FADD"
  | .fsub _ _ _ => "FSUB"
  | .fneg _ _ => "FNEG"
  | .fmul _ _ _ => "FMUL"
  | .fsq _ _ => "FSQ"
  | .fsq2 _ _ => "FSQ2"
  | .finv _ _ => "FINV"
  | .fcneg _ _ => "FCNEG"
  | .fcsel _ _ _ => "FCSEL"
  | .fisneg _ => "FISNEG"
  | .fisnz _ => "FISNZ"
  | .fenc _ _ => "FENC"
  | .fdec _ _ => "FDEC"
  | .pident _ => "PIDENT"
  | .pbase _ => "PBASE"
  | .pmov _ _ => "PMOV"
  | .pneg _ _ => "PNEG"
  | .padd _ _ _ => "PADD"
  | .psub _ _ _ => "PSUB"
  | .pdbl _ _ => "PDBL"
  | .pcvt _ _ _ => "PCVT"
  | .pgetc _ _ _ => "PGETC"
  | .penc _ _ => "PENC"
  | .pdec _ _ => "PDEC"
  | .pdecnv _ _ => "PDECNV"
  | .padde _ _ _ => "PADDE"
  | .smulb _ _ => "SMULB"
  | .smulv _ _ _ => "SMULV"

/-- A row of the table: a word `w` is that command exactly when `w AND mask = pattern` (R74). -/
structure OpcodeRow where
  mnemonic : String
  pattern : Word
  mask : Word
  deriving DecidableEq, Repr

/-- The columns mnemonic, match and mask of R74. The decoder does not use them; what it reads is stated against
them. -/
def opcodeTable : List OpcodeRow :=
  [ ⟨"NOP", 0x00000000, 0xFFFFFFFF⟩
  , ⟨"WIPE", 0x01000000, 0xFFFFFFFF⟩
  , ⟨"CSET", 0x02000000, 0xFFFFFFFE⟩
  , ⟨"BLDL", 0x03000000, 0xFFCFFFFF⟩
  , ⟨"FZERO", 0x10000000, 0xFF0FFFFF⟩
  , ⟨"FONE", 0x11000000, 0xFF0FFFFF⟩
  , ⟨"FMOV", 0x12000000, 0xFF00FFFF⟩
  , ⟨"FADD", 0x13000000, 0xFF000FFF⟩
  , ⟨"FSUB", 0x14000000, 0xFF000FFF⟩
  , ⟨"FNEG", 0x15000000, 0xFF00FFFF⟩
  , ⟨"FMUL", 0x16000000, 0xFF000FFF⟩
  , ⟨"FSQ", 0x17000000, 0xFF00FFFF⟩
  , ⟨"FSQ2", 0x18000000, 0xFF00FFFF⟩
  , ⟨"FINV", 0x19000000, 0xFF00FFFF⟩
  , ⟨"FCNEG", 0x1A000000, 0xFF00FFFF⟩
  , ⟨"FCSEL", 0x1B000000, 0xFF000FFF⟩
  , ⟨"FISNEG", 0x1C000000, 0xFFF0FFFF⟩
  , ⟨"FISNZ", 0x1D000000, 0xFFF0FFFF⟩
  , ⟨"FENC", 0x1E000000, 0xFFC0FFFF⟩
  , ⟨"FDEC", 0x1F000000, 0xFF0CFFFF⟩
  , ⟨"PIDENT", 0x20000000, 0xFF8FFFFF⟩
  , ⟨"PBASE", 0x21000000, 0xFF8FFFFF⟩
  , ⟨"PMOV", 0x22000000, 0xFF88FFFF⟩
  , ⟨"PNEG", 0x23000000, 0xFF88FFFF⟩
  , ⟨"PADD", 0x24000000, 0xFF888FFF⟩
  , ⟨"PSUB", 0x25000000, 0xFF888FFF⟩
  , ⟨"PDBL", 0x26000000, 0xFF88FFFF⟩
  , ⟨"PCVT", 0x27000000, 0xFF88FFFC⟩
  , ⟨"PGETC", 0x28000000, 0xFF08FFFC⟩
  , ⟨"PENC", 0x29000000, 0xFFC8FFFF⟩
  , ⟨"PDEC", 0x2A000000, 0xFF8CFFFF⟩
  , ⟨"PDECNV", 0x2B000000, 0xFF8CFFFF⟩
  , ⟨"PADDE", 0x2C000000, 0xFF888FFF⟩
  , ⟨"SMULB", 0x30000000, 0xFF8CFFFF⟩
  , ⟨"SMULV", 0x31000000, 0xFF88CFFF⟩ ]

/-- The word matches the row (R74). -/
def OpcodeRow.matchesWord (r : OpcodeRow) (w : Word) : Prop := w &&& r.mask = r.pattern

end Sys2Proof
end

