-- ==== Sys2Proof/Machine/State.lean ====
section
/-! DEFINITION. The state of EDCORE (spec/10_state.md R21: "The whole architectural state is the tuple
(F, P, B, cf, ERR, STICKY)"), the host accesses that drive it (spec/20_memory.md R52 to R54, R61), its
reset value (R37), and the reasons a step stops. -/

namespace Sys2Proof.Machine

/-! ## Point representations (R30, R31) -/

/-- Extended: (X, Y, Z, T) with x = X/Z, y = Y/Z, XY = ZT (R31). -/
structure Extended where
  x : Fp
  y : Fp
  z : Fp
  t : Fp
  deriving DecidableEq, Repr

/-- Projective: (X, Y, Z) with x = X/Z, y = Y/Z (R31, R32). -/
structure Projective where
  x : Fp
  y : Fp
  z : Fp
  deriving DecidableEq, Repr

/-- Completed: (X, Y, Z, T) with x = X/Z, y = Y/T (R31, R32). -/
structure Completed where
  x : Fp
  y : Fp
  z : Fp
  t : Fp
  deriving DecidableEq, Repr

/-- Cached: (Y+X, Y-X, Z, 2d*T) (R31). -/
structure Cached where
  ypx : Fp
  ymx : Fp
  z : Fp
  t2d : Fp
  deriving DecidableEq, Repr

/-- What a written point register holds: a variant tag and that variant's components (R29, R30). The four
variants are a closed set, and a Projective representation has no fourth component (R31). -/
inductive Point
  | extended (e : Extended)
  | projective (q : Projective)
  | completed (c : Completed)
  | cached (k : Cached)
  deriving DecidableEq, Repr

/-! ## Result codes (spec/60_exceptions.md R220) -/

/-- The six result codes of STATUS.ERR. Codes 6 to 15 never occur (R28, R220). -/
inductive ResultCode
  | ok
  | illegal
  | uninit
  | tag
  | range
  | decode
  deriving DecidableEq, Repr

/-! ## The host's side of the bus -/

/-- One event from outside: the moves of the host table, spec/44_host_sequences.md R210. Addresses are
window offsets (R50); `n` is the access size in bytes; a write's value is the low `n` bytes of `v`. -/
inductive HostAccess
  /-- `MemRead(addr, n)` (R52). -/
  | read (addr n : Nat)
  /-- `MemWrite(addr, n, v)` (R53); a 4-byte write at offset 0x00 executes the command `v` (R54). -/
  | write (addr n : Nat) (v : Word)
  /-- The platform's reset, between bus transfers (spec/70_reset_and_hazards.md R250). -/
  | reset
  deriving DecidableEq, Repr

/-- The window's storage, as (offset, byte) cells in canonical form (`Memory.wf`): only the four byte
buffers are storage (R51), so only offsets 0x80 to 0xFF are ever listed. -/
abbrev Memory := List Host.Cell

/-- What an unlisted offset reads as: 0, the reset contents of the buffers (R25, R37, R56). -/
def Memory.unlisted : Byte := 0

/-! ## The state -/

/-- EDCORE's architectural state (R21) and, in the last two fields, the host's side of the bus. -/
structure State where
  /-- F: f0..f15, each Empty (`none`) or a value of Fp (R22, R24). -/
  fregs : Vector (Option Fp) Config.numFieldRegs
  /-- P: p0..p7, each Empty (`none`) or a tagged representation (R29). -/
  pregs : Vector (Option Point) Config.numPointRegs
  /-- B: the buffers b0..b3, byte i of buffer k at window offset 0x80 + 32*k + i (R25, R51). -/
  mem : Memory
  /-- The condition flag (R26), STATUS bit 0. -/
  cf : Bool
  /-- The result code of the most recent command (R28, R220), STATUS bits 7:4. -/
  err : ResultCode
  /-- Some command since reset ended with code 1 to 4 (R28, R223), STATUS bit 1. -/
  sticky : Bool
  /-- The model's own: the host accesses still to come, in the order the host issues them (R61). -/
  pending : List HostAccess
  /-- The model's own: the value the host's last read returned (R52). -/
  readData : Word
  deriving DecidableEq, Repr

/-- The state after reset (R37, R251): every register Empty, every buffer zero, cf = 0, ERR = OK,
STICKY = 0. The host has issued nothing and read nothing (DESIGN CHOICE, log entries 2 and 3). -/
def State.reset : State where
  fregs := Vector.replicate Config.numFieldRegs none
  pregs := Vector.replicate Config.numPointRegs none
  mem := []
  cf := false
  err := .ok
  sticky := false
  pending := []
  readData := 0

/-! ## Why a step stops -/

/-- The reasons a step ends in a fault. No command raises one: what a processor would trap on is a result
code here (spec/60_exceptions.md R220, R224). -/
inductive Fault
  /-- A host access that runs past window offset 0xFF, an address EDCORE does not have (R58, R60). Raised by
  `hostAccess`. Safe: what the bus does there is the platform's, and no claim follows from it. -/
  | outsideWindow
  deriving DecidableEq, Repr

/-- The reasons a step is refused. -/
inductive Refusal
  /-- An instruction that has no meaning yet, by its mnemonic. Raised by `exec` alone. Safe. -/
  | notModelled (mnemonic : String)
  /-- A host access whose size is not 1, 2 or 4 bytes: not defined by the spec (R58). Raised by
  `hostAccess`. Safe: the model has no such step. -/
  | badAccessSize
  /-- A host access whose offset is not a multiple of its size: not defined by the spec (R58). Raised by
  `hostAccess`. Safe: the model has no such step. -/
  | misalignedAccess
  deriving DecidableEq, Repr

/-- What a command or a step answers. -/
abbrev Answer := Host.Outcome State Fault Refusal

end Sys2Proof.Machine
end

