-- ==== Sys2Proof/Machine/Arith.lean ====
section
/-! DEFINITION. Field arithmetic beyond `+`, `-`, `*` (spec/00_scope.md R8 to R18, spec/40_field.md R106 to
R119) and the constants (spec/10_state.md R34). The constants are definitions, not state (R253). -/

namespace Sys2Proof

/-! ## Powers and inverses -/

/-- `a ^ (n mod 2^bits)`, left-to-right binary square-and-multiply (R118). -/
def Fp.powBits (a : Fp) : (bits n : Nat) → Fp
  | 0, _ => 1
  | bits + 1, n =>
    let h := Fp.powBits a bits (n / 2)
    if n % 2 = 1 then h * h * a else h * h

/-- `a ^ n` for an exponent below 2^255. -/
def Fp.pow (a : Fp) (n : Nat) : Fp := Fp.powBits a 255 n

/-- `inv(a) = a^(p-2) mod p`; `inv(0) = 0` (R18, R110). -/
def Fp.inv (a : Fp) : Fp := Fp.pow a (fieldPrime - 2)

/-- `isneg(a)`: the least significant bit of the canonical value (R12, R113). -/
def Fp.isNeg (a : Fp) : Bool := decide (a.val % 2 = 1)

/-- `le32(a)`: the canonical 32-byte little-endian string (R17, R115). -/
def Fp.toBytes (a : Fp) : Bytes32 := BitVec.ofNat 256 a.val

/-- Field decode: bit 255 dropped, the rest reduced modulo p (R116). -/
def Fp.ofBytes (s : Bytes32) : Fp := Fp.ofNat (s.toNat % 2 ^ 255)

/-! ## The schedules of R118 and R119

`FINV` and `PENC` are defined by the value `a^(p-2)`; these are the chains EDCORE computes them with. -/

/-- `sq(x, n)`: n successive squarings (R118). -/
def Fp.sqN (x : Fp) : Nat → Fp
  | 0 => x
  | n + 1 => let y := Fp.sqN x n; y * y

/-- The common part of R118 and R119: (z^11, z^(2^250 - 1)). -/
def Fp.chain250 (z : Fp) : Fp × Fp :=
  let t0 := Fp.sqN z 1
  let t1 := Fp.sqN t0 2
  let t1 := z * t1
  let t0 := t0 * t1
  let t2 := Fp.sqN t0 1
  let t1 := t1 * t2
  let t2 := Fp.sqN t1 5
  let t1 := t2 * t1
  let t2 := Fp.sqN t1 10
  let t2 := t2 * t1
  let t3 := Fp.sqN t2 20
  let t2 := t3 * t2
  let t2 := Fp.sqN t2 10
  let t1 := t2 * t1
  let t2 := Fp.sqN t1 50
  let t2 := t2 * t1
  let t3 := Fp.sqN t2 100
  let t2 := t3 * t2
  let t2 := Fp.sqN t2 50
  let t1 := t2 * t1
  (t0, t1)

/-- The schedule of `FINV` (R118): 254 squarings, 11 multiplications, no early exit. -/
def Fp.invChain (z : Fp) : Fp :=
  let c := Fp.chain250 z
  Fp.sqN c.2 5 * c.1

/-- `Pow58(z) = z^((p-5)/8)` by its schedule (R119). -/
def Fp.pow58 (z : Fp) : Fp := Fp.sqN (Fp.chain250 z).2 2 * z

end Sys2Proof

namespace Sys2Proof.Machine

/-! ## Constants -/

/-- d = -121665/121666 mod p (R8). -/
def curveD : Fp := 0x52036cee2b6ffe738cc740797779e89800700a4d4141d8ab75eb4dca135978a3

/-- 2d mod p (R8). -/
def curve2D : Fp := 0x2406d9dc56dffce7198e80f2eef3d13000e0149a8283b156ebd69b9426b2f159

/-- I, a square root of -1 (R13). -/
def sqrtMinusOne : Fp := 0x2b8324804fc1df0b2b4d00993dfbd7a72f431806ad2fe478c4ee1b274a0ea0b0

/-- The prime group order L (R9). -/
def groupOrder : Nat := 2 ^ 252 + 27742317777372353535851937790883648493

/-- `le32(L)`, the constant `BLDL` delivers (R9, R194). -/
def groupOrderBytes : Bytes32 := BitVec.ofNat 256 groupOrder

/-- x_B (R10). -/
def baseX : Fp := 0x216936d3cd6e53fec0a4e231fdd6dc5c692cc7609525a7b2c9562d608f25d51a

/-- y_B = 4/5 (R10). -/
def baseY : Fp := 0x6666666666666666666666666666666666666666666666666666666666666658

end Sys2Proof.Machine
end

