-- ==== Sys2Proof/Machine/Ops.lean ====
section
/-! DEFINITION. The named operations over memory, registers and buffers, and how a command ends
(spec/10_state.md, spec/20_memory.md, spec/60_exceptions.md). EDCORE has no trap: the shared operation in a
processor's place of "taking an exception" is `State.raise` (R220, R221), and there is nothing to return
from (R226). -/

namespace Sys2Proof.Machine

/-! ## Memory: the bytes of the window that are storage -/

/-- The byte at a window offset (R56): what was last written there, or 0. -/
def Memory.read : Memory → Nat → Byte
  | [], _ => Memory.unlisted
  | (a, b) :: m, x => if x = a then b else Memory.read m x

/-- `m` with byte `v` at offset `x` (R53, R56), in canonical form again. -/
def Memory.write : Memory → Nat → Byte → Memory
  | [], x, v => if v = Memory.unlisted then [] else [(x, v)]
  | (a, b) :: m, x, v =>
    if x < a then (if v = Memory.unlisted then (a, b) :: m else (x, v) :: (a, b) :: m)
    else if x = a then (if v = Memory.unlisted then m else (x, v) :: m)
    else (a, b) :: Memory.write m x v

/-- The canonical form: offsets strictly rising, and no cell that equals what an unlisted offset reads as. -/
def Memory.wf : Memory → Bool
  | [] => true
  | (a, b) :: m => decide (b ≠ Memory.unlisted) && m.all (fun c => decide (a < c.1)) && Memory.wf m

/-- Only buffer bytes are storage: every listed offset is in 0x80 .. 0xFF (R51). -/
def Memory.inBuffers (m : Memory) : Bool :=
  m.all (fun c => decide (Config.bufferBase ≤ c.1) && decide (c.1 < Config.windowBytes))

/-- The `n` bytes from offset `x` as a number, the byte at the lowest offset least significant (R57). -/
def Memory.readLE (m : Memory) : (x n : Nat) → Nat
  | _, 0 => 0
  | x, n + 1 => (m.read x).toNat + 256 * Memory.readLE m (x + 1) n

/-- `m` with the low `n` bytes of `v` stored from offset `x` on, least significant byte lowest (R57). -/
def Memory.writeLE (m : Memory) : (x n v : Nat) → Memory
  | _, 0, _ => m
  | x, n + 1, v => Memory.writeLE (m.write x (BitVec.ofNat 8 v)) (x + 1) n (v / 256)

/-! ## Registers and buffers -/

/-- `F[i]`: `none` is Empty (R22, R24). -/
def State.readF (s : State) (i : FReg) : Option Fp := s.fregs.get i

/-- `F[i] <- v` (R18). -/
def State.writeF (s : State) (i : FReg) (v : Fp) : State :=
  { s with fregs := s.fregs.set i.val (some v) i.isLt }

/-- `P[i]`: `none` is Empty (R29). -/
def State.readP (s : State) (i : PReg) : Option Point := s.pregs.get i

/-- `P[i] <- (tag, components)` (R18). -/
def State.writeP (s : State) (i : PReg) (q : Point) : State :=
  { s with pregs := s.pregs.set i.val (some q) i.isLt }

/-- `P[i] <- Empty` (R18). -/
def State.emptyP (s : State) (i : PReg) : State :=
  { s with pregs := s.pregs.set i.val none i.isLt }

/-- Window offset of byte 0 of a buffer (R51). -/
def bufferOffset (k : BReg) : Nat := Config.bufferBase + Config.bufferBytes * k.val

/-- `B[k]`: the 32-byte string in a buffer (R18, R25). -/
def State.readB (s : State) (k : BReg) : Bytes32 :=
  BitVec.ofNat 256 (s.mem.readLE (bufferOffset k) Config.bufferBytes)

/-- `B[k] <- v`: all 32 bytes replaced (R18, R25). -/
def State.writeB (s : State) (k : BReg) (v : Bytes32) : State :=
  { s with mem := s.mem.writeLE (bufferOffset k) Config.bufferBytes v.toNat }

/-- `cf <- b` (R18, R26). -/
def State.writeCf (s : State) (b : Bool) : State := { s with cf := b }

/-- Everything `WIPE` clears: all registers Empty, all buffers zero, cf = 0 (R192). -/
def State.wipe (s : State) : State :=
  { s with
    fregs := Vector.replicate Config.numFieldRegs none
    pregs := Vector.replicate Config.numPointRegs none
    mem := []
    cf := false }

/-! ## How a command ends (R220 to R223) -/

/-- The number of a result code in STATUS.ERR (R220). -/
def ResultCode.number : ResultCode → BitVec 4
  | .ok => 0
  | .illegal => 1
  | .uninit => 2
  | .tag => 3
  | .range => 4
  | .decode => 5

/-- Codes 1 to 4 set STICKY; OK and DECODE leave it (R223). -/
def ResultCode.setsSticky : ResultCode → Bool
  | .ok => false
  | .illegal => true
  | .uninit => true
  | .tag => true
  | .range => true
  | .decode => false

/-- STATUS after a command that ended with code `c` (R221, R223). -/
def State.finish (s : State) (c : ResultCode) : State :=
  { s with err := c, sticky := s.sticky || c.setsSticky }

/-- The command completed: result code OK (R220, R221). -/
def State.done (s : State) : Answer := .next (s.finish .ok)

/-- `raise <Code>` for ILLEGAL, UNINIT, TAG and RANGE: nothing changes but ERR and STICKY (R221). -/
def State.raise (s : State) (c : ResultCode) : Answer := .next (s.finish c)

/-- `raise DECODE`: the destination point register becomes Empty and nothing else changes but ERR
(R141, R221). -/
def State.raiseDecode (s : State) (pd : PReg) : Answer := .next ((s.emptyP pd).finish .decode)

/-- The STATUS word (R28): CF bit 0, STICKY bit 1, ERR bits 7:4, every other bit 0. -/
def State.status (s : State) : Word :=
  (0#24) ++ s.err.number ++ (0#2) ++ BitVec.ofBool s.sticky ++ BitVec.ofBool s.cf

/-- The platform's reset (R250, R251): EDCORE's state becomes the reset state; the host's side of the bus
is not EDCORE's and stays (log entry 4). -/
def State.resetEvent (s : State) : State :=
  { State.reset with pending := s.pending, readData := s.readData }

end Sys2Proof.Machine
end

