-- ==== Sys2Proof/Machine/Flags.lean ====
section
/-! DEFINITION. What the condition flag is set from and what it selects (spec/10_state.md R26). The flag is
written by `FISNEG`, `FISNZ`, `CSET`, `WIPE` and reset, and read by `FCNEG`, `FCSEL` and STATUS.CF. -/

namespace Sys2Proof.Machine

/-- The flag of `FISNEG` (R113): `isneg` of the canonical value. -/
def negativeFlag (a : Fp) : Bool := a.isNeg

/-- The flag of `FISNZ` (R114): 1 when the source is not 0. -/
def nonzeroFlag (a : Fp) : Bool := decide (a ≠ 0)

/-- `FCNEG`'s value (R111): the negative when cf = 1, else the source. -/
def condNeg (cf : Bool) (a : Fp) : Fp := if cf then -a else a

/-- `FCSEL`'s value (R112): the second source when cf = 1, else the first. -/
def condSelect (cf : Bool) (a b : Fp) : Fp := if cf then b else a

end Sys2Proof.Machine
end

