-- ==== Sys2Proof/Machine/Operands.lean ====
section
/-! DEFINITION. The operand forms of the commands: which registers are read, in which order they are checked
(spec/60_exceptions.md R222), and where the result goes. Every source is read before the destination is
written (R18, R100 (a), R130 (a)), so a destination may also be a source. -/

namespace Sys2Proof.Machine

/-- One F source, F destination: UNINIT when the source is Empty (R100 (b)). -/
def unaryF (fd fs : FReg) (op : Fp → Fp) (s : State) : Answer :=
  match s.readF fs with
  | none => s.raise .uninit
  | some a => (s.writeF fd (op a)).done

/-- Two F sources, F destination: UNINIT when either source is Empty (R100 (b)). -/
def binaryF (fd fs1 fs2 : FReg) (op : Fp → Fp → Fp) (s : State) : Answer :=
  match s.readF fs1, s.readF fs2 with
  | some a, some b => (s.writeF fd (op a b)).done
  | _, _ => s.raise .uninit

/-- One F source, cf the result: UNINIT when the source is Empty (R113, R114). -/
def testF (fs : FReg) (op : Fp → Bool) (s : State) : Answer :=
  match s.readF fs with
  | none => s.raise .uninit
  | some a => (s.writeCf (op a)).done

/-- One F source, buffer destination: UNINIT when the source is Empty (R115). -/
def storeF (bd : BReg) (fs : FReg) (op : Fp → Bytes32) (s : State) : Answer :=
  match s.readF fs with
  | none => s.raise .uninit
  | some a => (s.writeB bd (op a)).done

/-- One P source, P destination: UNINIT when the source is Empty, TAG when `op` has no result for its
variant (R130 (b)). -/
def unaryP (pd ps : PReg) (op : Point → Option Point) (s : State) : Answer :=
  match s.readP ps with
  | none => s.raise .uninit
  | some q =>
    match op q with
    | none => s.raise .tag
    | some r => (s.writeP pd r).done

/-- Two P sources, P destination: UNINIT when either is Empty, and only then TAG when `op` has no result
for their variants (R130 (b), R222). -/
def binaryP (pd ps1 ps2 : PReg) (op : Point → Point → Option Point) (s : State) : Answer :=
  match s.readP ps1, s.readP ps2 with
  | some q1, some q2 =>
    match op q1 q2 with
    | none => s.raise .tag
    | some r => (s.writeP pd r).done
  | _, _ => s.raise .uninit

/-- One P source, F destination (R139): UNINIT, then TAG, as `unaryP`. -/
def extractP (fd : FReg) (ps : PReg) (op : Point → Option Fp) (s : State) : Answer :=
  match s.readP ps with
  | none => s.raise .uninit
  | some q =>
    match op q with
    | none => s.raise .tag
    | some v => (s.writeF fd v).done

/-- One P source, buffer destination (R140): UNINIT, then TAG, as `unaryP`. -/
def storeP (bd : BReg) (ps : PReg) (op : Point → Option Bytes32) (s : State) : Answer :=
  match s.readP ps with
  | none => s.raise .uninit
  | some q =>
    match op q with
    | none => s.raise .tag
    | some v => (s.writeB bd v).done

/-- A buffer source, P destination, DECODE when the bytes encode no point (R141, R142). -/
def decodeP (pd : PReg) (bs : BReg) (op : Bytes32 → Option Point) (s : State) : Answer :=
  match op (s.readB bs) with
  | none => s.raiseDecode pd
  | some r => (s.writeP pd r).done

/-- A buffer source holding a scalar, P destination, RANGE when `op` refuses the scalar (R172). -/
def scalarP (pd : PReg) (bs : BReg) (op : Nat → Option Point) (s : State) : Answer :=
  match op (s.readB bs).toNat with
  | none => s.raise .range
  | some r => (s.writeP pd r).done

end Sys2Proof.Machine
end

