-- ==== Sys2Proof/Machine/FieldCommands.lean ====
section
/-! DEFINITION. The field commands (spec/40_field.md R100 to R116). -/

namespace Sys2Proof.Machine

/-- `FZERO fd` (R101): `F[fd] <- 0`. -/
def execFzero (fd : FReg) (s : State) : Answer := (s.writeF fd 0).done

/-- `FONE fd` (R102): `F[fd] <- 1`. -/
def execFone (fd : FReg) (s : State) : Answer := (s.writeF fd 1).done

/-- `FMOV fd, fs` (R103): `F[fd] <- F[fs]`. -/
def execFmov (fd fs : FReg) (s : State) : Answer := unaryF fd fs (fun a => a) s

/-- `FADD fd, fs1, fs2` (R104): `F[fd] <- (F[fs1] + F[fs2]) mod p`. -/
def execFadd (fd fs1 fs2 : FReg) (s : State) : Answer := binaryF fd fs1 fs2 (fun a b => a + b) s

/-- `FSUB fd, fs1, fs2` (R105): `F[fd] <- (F[fs1] - F[fs2]) mod p`. -/
def execFsub (fd fs1 fs2 : FReg) (s : State) : Answer := binaryF fd fs1 fs2 (fun a b => a - b) s

/-- `FNEG fd, fs` (R106): `F[fd] <- (p - F[fs]) mod p`. -/
def execFneg (fd fs : FReg) (s : State) : Answer := unaryF fd fs (fun a => -a) s

/-- `FMUL fd, fs1, fs2` (R107): `F[fd] <- (F[fs1] * F[fs2]) mod p`, on plain residues. -/
def execFmul (fd fs1 fs2 : FReg) (s : State) : Answer := binaryF fd fs1 fs2 (fun a b => a * b) s

/-- `FSQ fd, fs` (R108): `F[fd] <- (F[fs] * F[fs]) mod p`. -/
def execFsq (fd fs : FReg) (s : State) : Answer := unaryF fd fs (fun a => a * a) s

/-- `FSQ2 fd, fs` (R109): `F[fd] <- (2 * F[fs] * F[fs]) mod p`. -/
def execFsq2 (fd fs : FReg) (s : State) : Answer := unaryF fd fs (fun a => 2 * a * a) s

/-- `FINV fd, fs` (R110): `F[fd] <- F[fs]^(p-2) mod p`. -/
def execFinv (fd fs : FReg) (s : State) : Answer := unaryF fd fs Fp.inv s

/-- `FCNEG fd, fs` (R111): the negative when cf = 1, else a copy. -/
def execFcneg (fd fs : FReg) (s : State) : Answer := unaryF fd fs (condNeg s.cf) s

/-- `FCSEL fd, fs1, fs2` (R112): F[fs2] when cf = 1, else F[fs1]; both must be written. -/
def execFcsel (fd fs1 fs2 : FReg) (s : State) : Answer := binaryF fd fs1 fs2 (condSelect s.cf) s

/-- `FISNEG fs` (R113): `cf <- isneg(F[fs])`. -/
def execFisneg (fs : FReg) (s : State) : Answer := testF fs negativeFlag s

/-- `FISNZ fs` (R114): `cf <- 1 if F[fs] != 0, else 0`. -/
def execFisnz (fs : FReg) (s : State) : Answer := testF fs nonzeroFlag s

/-- `FENC bd, fs` (R115): `B[bd] <- le32(F[fs])`. -/
def execFenc (bd : BReg) (fs : FReg) (s : State) : Answer := storeF bd fs Fp.toBytes s

/-- `FDEC fd, bs` (R116): `F[fd] <- (int(B[bs]) mod 2^255) mod p`; never UNINIT. -/
def execFdec (fd : FReg) (bs : BReg) (s : State) : Answer := (s.writeF fd (Fp.ofBytes (s.readB bs))).done

end Sys2Proof.Machine
end

