-- ==== Sys2Proof/Machine/Curve.lean ====
section
/-! DEFINITION. The curve (spec/00_scope.md R8, R10, R11), what a representation denotes (spec/10_state.md
R32), and the group datapaths with the exact components they write (spec/41_group.md R130 (d), R134 to
R143, R146). -/

namespace Sys2Proof.Machine

/-! ## The affine group law (R11) -/

/-- An affine point (x, y). -/
structure Affine where
  x : Fp
  y : Fp
  deriving DecidableEq, Repr

/-- `OnCurve(x, y)` (R8). -/
abbrev Affine.OnCurve (a : Affine) : Prop :=
  -(a.x * a.x) + a.y * a.y - 1 - curveD * a.x * a.x * a.y * a.y = 0

/-- The identity (0, 1) (R10). -/
def Affine.identity : Affine := ⟨0, 1⟩

/-- The base point B (R10). -/
def Affine.base : Affine := ⟨baseX, baseY⟩

/-- `-(x, y) = (-x, y)` (R11). -/
def Affine.neg (a : Affine) : Affine := ⟨-a.x, a.y⟩

/-- `(x1, y1) ⊕ (x2, y2)` (R11), division being multiplication by the inverse. -/
def Affine.add (a b : Affine) : Affine :=
  let k := curveD * a.x * b.x * a.y * b.y
  ⟨(a.x * b.y + b.x * a.y) * (1 + k).inv, (a.y * b.y + a.x * b.x) * (1 - k).inv⟩

/-- `[n]P`: P added to itself n times, `[0]P = (0, 1)` (R11). -/
def Affine.smul : Nat → Affine → Affine
  | 0, _ => Affine.identity
  | n + 1, a => (Affine.smul n a).add a

/-! ## What a representation denotes: `Aff` (R32) -/

/-- `Aff` of an Extended representation. -/
def Extended.aff (e : Extended) : Affine := ⟨e.x * e.z.inv, e.y * e.z.inv⟩

/-- `Aff` of a Projective representation. -/
def Projective.aff (q : Projective) : Affine := ⟨q.x * q.z.inv, q.y * q.z.inv⟩

/-- `Aff` of a Completed representation. -/
def Completed.aff (c : Completed) : Affine := ⟨c.x * c.z.inv, c.y * c.t.inv⟩

/-- `Aff` of a Cached representation. -/
def Cached.aff (k : Cached) : Affine :=
  ⟨(k.ypx - k.ymx) * (2 * k.z).inv, (k.ypx + k.ymx) * (2 * k.z).inv⟩

/-- `Aff` of a stored point. -/
def Point.aff : Point → Affine
  | .extended e => e.aff
  | .projective q => q.aff
  | .completed c => c.aff
  | .cached k => k.aff

/-- The variant tag of a stored point (R30). -/
def Point.variant : Point → Variant
  | .extended _ => .extended
  | .projective _ => .projective
  | .completed _ => .completed
  | .cached _ => .cached

/-- `Ext(x, y)`: the Extended representation (x, y, 1, x*y) of an affine point (R19). -/
def Extended.ofAffine (a : Affine) : Extended := ⟨a.x, a.y, 1, a.x * a.y⟩

/-- The identity, Ext(0, 1) = (0, 1, 1, 0) (R34, R131). -/
def Extended.identity : Extended := ⟨0, 1, 1, 0⟩

/-- The base point, Ext(x_B, y_B) (R34, R132). -/
def Extended.base : Extended := Extended.ofAffine Affine.base

/-! ## Datapaths -/

/-- Extended plus Cached to Completed: the datapath of `PADD` (R135). -/
def Extended.addCached (e : Extended) (q : Cached) : Completed :=
  let a := (e.y + e.x) * q.ypx
  let b := (e.y - e.x) * q.ymx
  let c := q.t2d * e.t
  let zz := e.z * q.z
  let d := zz + zz
  ⟨a - b, a + b, d + c, d - c⟩

/-- Extended minus Cached to Completed: the datapath of `PSUB` (R136). -/
def Extended.subCached (e : Extended) (q : Cached) : Completed :=
  let a := (e.y + e.x) * q.ymx
  let b := (e.y - e.x) * q.ypx
  let c := q.t2d * e.t
  let zz := e.z * q.z
  let d := zz + zz
  ⟨a - b, a + b, d - c, d + c⟩

/-- Doubling to Completed: the datapath of `PDBL` (R137). -/
def Projective.double (q : Projective) : Completed :=
  let xx := q.x * q.x
  let yy := q.y * q.y
  let b := 2 * q.z * q.z
  let aa := (q.x + q.y) * (q.x + q.y)
  let y3 := yy + xx
  let z3 := yy - xx
  let x3 := aa - y3
  let t3 := b - z3
  ⟨x3, y3, z3, t3⟩

/-- Completed to Extended (R138, first line). -/
def Completed.toExtended (c : Completed) : Extended := ⟨c.x * c.t, c.y * c.z, c.z * c.t, c.x * c.y⟩

/-- Completed to Projective (R138, second line). -/
def Completed.toProjective (c : Completed) : Projective := ⟨c.x * c.t, c.y * c.z, c.z * c.t⟩

/-- Extended to Projective (R138, third line); also how `PDBL` takes an Extended operand, whose T it does
not use (R137). -/
def Extended.toProjective (e : Extended) : Projective := ⟨e.x, e.y, e.z⟩

/-- Extended to Cached (R138, fourth line). -/
def Extended.toCached (e : Extended) : Cached := ⟨e.y + e.x, e.y - e.x, e.z, e.t * curve2D⟩

/-- The negative of a Cached representation (R134, fourth line). -/
def Cached.negate (k : Cached) : Cached := ⟨k.ymx, k.ypx, k.z, -k.t2d⟩

/-- The negative of an Extended representation (R134, first line). -/
def Extended.negate (e : Extended) : Extended := ⟨-e.x, e.y, e.z, -e.t⟩

/-- Extended plus Extended to Extended: the datapath of `PADDE` (R143). -/
def Extended.addExtended (e f : Extended) : Extended := (e.addCached f.toCached).toExtended

/-! ## The operations of the group commands on stored points (R130 (f)) -/

/-- `PNEG` (R134): every variant. -/
def Point.negate : Point → Point
  | .extended e => .extended e.negate
  | .projective q => .projective ⟨-q.x, q.y, q.z⟩
  | .completed c => .completed ⟨-c.x, c.y, c.z, c.t⟩
  | .cached k => .cached k.negate

/-- `PADD` (R135): Extended and Cached only. -/
def Point.add? : Point → Point → Option Point
  | .extended e, .cached k => some (.completed (e.addCached k))
  | _, _ => none

/-- `PSUB` (R136): Extended and Cached only. -/
def Point.sub? : Point → Point → Option Point
  | .extended e, .cached k => some (.completed (e.subCached k))
  | _, _ => none

/-- `PADDE` (R143): Extended and Extended only. -/
def Point.addExtended? : Point → Point → Option Point
  | .extended e, .extended f => some (.extended (e.addExtended f))
  | _, _ => none

/-- `PDBL` (R137): Extended or Projective. -/
def Point.double? : Point → Option Point
  | .extended e => some (.completed e.toProjective.double)
  | .projective q => some (.completed q.double)
  | .completed _ => none
  | .cached _ => none

/-- `PCVT` (R138): four pairs convert, the other twelve do not. -/
def Point.convert? (v : Variant) (q : Point) : Option Point :=
  match q, v with
  | .completed c, .extended => some (.extended c.toExtended)
  | .completed c, .projective => some (.projective c.toProjective)
  | .extended e, .projective => some (.projective e.toProjective)
  | .extended e, .cached => some (.cached e.toCached)
  | _, _ => none

/-- Component `k` (R31, R139); a Projective representation has no component 3. -/
def Point.component? (k : Fin 4) (q : Point) : Option Fp :=
  match q with
  | .extended e => some (if k = 0 then e.x else if k = 1 then e.y else if k = 2 then e.z else e.t)
  | .projective q => if k = 0 then some q.x else if k = 1 then some q.y else if k = 2 then some q.z else none
  | .completed c => some (if k = 0 then c.x else if k = 1 then c.y else if k = 2 then c.z else c.t)
  | .cached q => some (if k = 0 then q.ypx else if k = 1 then q.ymx else if k = 2 then q.z else q.t2d)

/-- The 32-byte encoding of an affine point: y with the sign of x in bit 255 (R140). -/
def Affine.encode (a : Affine) : Bytes32 :=
  a.y.toBytes ^^^ (if a.x.isNeg then 1#256 <<< 255 else 0#256)

/-- `PENC` (R140): Extended or Projective. -/
def Point.encode? : Point → Option Bytes32
  | .extended e => some e.aff.encode
  | .projective q => some q.aff.encode
  | .completed _ => none
  | .cached _ => none

/-! ## Point decoding (R141, R142, R146) -/

/-- `u = y*y - 1` (R141). -/
def decodeU (y : Fp) : Fp := y * y - 1

/-- `v = d*y*y + 1` (R141). -/
def decodeV (y : Fp) : Fp := curveD * y * y + 1

/-- The root candidate of the schedule: `u * v^3 * (u*v^7)^((p-5)/8)` (R146). -/
def rootCandidate (u v : Fp) : Fp :=
  let v3 := v * v * v
  (v3 * v3 * v * u).pow58 * v3 * u

/-- A solution x of `v*x*x = u`, or `none` (R146): the candidate, or the candidate times I. -/
def squareRoot? (u v : Fp) : Option Fp :=
  let x := rootCandidate u v
  let vxx := x * x * v
  if vxx - u = 0 then some x
  else if vxx + u = 0 then some (x * sqrtMinusOne)
  else none

/-- The point a 32-byte string encodes (R141): y reduced modulo p, x the solution with `isneg(x)` equal to bit
255, or `none` when there is no solution. That `squareRoot?` answers `none` exactly when there is no x with
`v*x*x = u` is the rule's definition of DECODE; R146's schedule is how it is computed. -/
def decodePoint? (s : Bytes32) : Option Affine :=
  let y := Fp.ofBytes s
  let sign := s.getLsbD 255
  match squareRoot? (decodeU y) (decodeV y) with
  | none => none
  | some x => some ⟨if x.isNeg = sign then x else -x, y⟩

end Sys2Proof.Machine
end

