-- ==== Sys2Proof/Machine/GroupCommands.lean ====
section
/-! DEFINITION. The group commands (spec/41_group.md R130 to R143). -/

namespace Sys2Proof.Machine

/-- `PIDENT pd` (R131): `P[pd] <- Ext(0, 1, 1, 0)`. -/
def execPident (pd : PReg) (s : State) : Answer := (s.writeP pd (.extended Extended.identity)).done

/-- `PBASE pd` (R132): `P[pd] <- Ext(x_B, y_B, 1, x_B * y_B)`. -/
def execPbase (pd : PReg) (s : State) : Answer := (s.writeP pd (.extended Extended.base)).done

/-- `PMOV pd, ps` (R133): tag and components copied, every variant. -/
def execPmov (pd ps : PReg) (s : State) : Answer := unaryP pd ps some s

/-- `PNEG pd, ps` (R134): the negative, every variant. -/
def execPneg (pd ps : PReg) (s : State) : Answer := unaryP pd ps (fun q => some q.negate) s

/-- `PADD pd, ps1, ps2` (R135): Extended plus Cached to Completed. -/
def execPadd (pd ps1 ps2 : PReg) (s : State) : Answer := binaryP pd ps1 ps2 Point.add? s

/-- `PSUB pd, ps1, ps2` (R136): Extended minus Cached to Completed. -/
def execPsub (pd ps1 ps2 : PReg) (s : State) : Answer := binaryP pd ps1 ps2 Point.sub? s

/-- `PDBL pd, ps` (R137): Extended or Projective doubled to Completed. -/
def execPdbl (pd ps : PReg) (s : State) : Answer := unaryP pd ps Point.double? s

/-- `PCVT pd, ps, v` (R138): the four conversions; every other pair is TAG. -/
def execPcvt (pd ps : PReg) (v : Variant) (s : State) : Answer := unaryP pd ps (Point.convert? v) s

/-- `PGETC fd, ps, k` (R139): component k to the field file. -/
def execPgetc (fd : FReg) (ps : PReg) (k : Fin 4) (s : State) : Answer := extractP fd ps (Point.component? k) s

/-- `PENC bd, ps` (R140): the 32-byte encoding of an Extended or Projective point. -/
def execPenc (bd : BReg) (ps : PReg) (s : State) : Answer := storeP bd ps Point.encode? s

/-- `PDEC pd, bs` (R141): Ext(x, y, 1, x*y), or DECODE with the destination made Empty. -/
def execPdec (pd : PReg) (bs : BReg) (s : State) : Answer :=
  decodeP pd bs (fun b => (decodePoint? b).map (fun a => .extended (Extended.ofAffine a))) s

/-- `PDECNV pd, bs` (R142): as `PDEC` with Ext(-x, y, 1, -(x*y)) written. -/
def execPdecnv (pd : PReg) (bs : BReg) (s : State) : Answer :=
  decodeP pd bs (fun b => (decodePoint? b).map (fun a => .extended (Extended.ofAffine a).negate)) s

/-- `PADDE pd, ps1, ps2` (R143): Extended plus Extended to Extended. -/
def execPadde (pd ps1 ps2 : PReg) (s : State) : Answer := binaryP pd ps1 ps2 Point.addExtended? s

end Sys2Proof.Machine
end

