-- ==== Sys2Proof/Machine/Scalar.lean ====
section
/-! DEFINITION. The recoding, the selection and the two scalar multiplications (spec/42_scalar.md R171 to
R176), with the exact components they write (spec/41_group.md R130 (d)). -/

namespace Sys2Proof.Machine

/-! ## Fixed-base -/

/-- The loop of R171 from some digit on: `n` more signed digits and then the top one, `s` the nibbles still to
come and `carry` the carry into the first of them. -/
def recodeFrom : (n s carry : Nat) → List Int
  | 0, s, carry => [((s % 16 + carry : Nat) : Int)]
  | n + 1, s, carry =>
    let t := s % 16 + carry
    let carry' := (t + 8) / 16
    ((t : Int) - 16 * (carry' : Int)) :: recodeFrom n (s / 16) carry'

/-- `Recode(s)`: the 64 signed radix-16 digits e[0..63], least significant first (R171). -/
def recode (s : Nat) : List Int := recodeFrom 63 s 0

/-- Digit e[i] of a recoding. -/
def digit (e : List Int) (i : Nat) : Int := e.getD i 0

/-- `Select(i, b)` (R174): all 8 entries of row i are gone through, the one whose index is |b| is kept, and
it is negated when b < 0. -/
def select (i : Nat) (b : Int) : Cached :=
  let t := (List.range Config.tableCols).foldl
    (fun t j => if b.natAbs = j + 1 then tableEntry i j else t) Cached.identity
  if b < 0 then t.negate else t

/-- `toExt(add(h, q))`, one addition step of R172 and R176. -/
def addStep (h : Extended) (q : Cached) : Extended := (h.addCached q).toExtended

/-- `toExt(dbl(toProj(dbl(toProj(dbl(toProj(dbl(h))))))))`: four doublings (R172, R176). -/
def times16 (h : Extended) : Extended :=
  h.toProjective.double.toProjective.double.toProjective.double.toProjective.double.toExtended

/-- The loop over the odd digits i = 1, 3, ..., 63 (R172): row (i-1)/2 for digit i. -/
def oddLoop (e : List Int) (h : Extended) : Extended :=
  (List.range Config.tableRows).foldl (fun h r => addStep h (select r (digit e (2 * r + 1)))) h

/-- The loop over the even digits i = 0, 2, ..., 62 (R172): row i/2 for digit i. -/
def evenLoop (e : List Int) (h : Extended) : Extended :=
  (List.range Config.tableRows).foldl (fun h r => addStep h (select r (digit e (2 * r)))) h

/-- The result of `SMULB` for a scalar below 2^255 (R172). -/
def smulBase (s : Nat) : Extended :=
  let e := recode s
  evenLoop e (times16 (oddLoop e Extended.identity))

/-- `SMULB`'s scalar check (R172): RANGE when bit 255 is set. -/
def smulBase? (s : Nat) : Option Point :=
  if s < 2 ^ 255 then some (.extended (smulBase s)) else none

/-! ## Variable-time -/

/-- `C[j], C[j+1], ...`: the Cached forms of E[j] and of the `n - 1` multiples after it, each the one before
plus C[1] (R176). -/
def multiplesFrom (c1 : Cached) : (n : Nat) → Extended → List Cached
  | 0, _ => []
  | n + 1, e => e.toCached :: multiplesFrom c1 n (addStep e c1)

/-- `C[1] .. C[15]` for the operand E[1] (R176). -/
def multiples (e : Extended) : List Cached := multiplesFrom e.toCached 15 e

/-- `C[w]` for `1 <= w <= 15` (R176). -/
def multiple (c : List Cached) (w : Nat) : Cached := c.getD (w - 1) Cached.identity

/-- The unsigned nibbles of s, most significant first: i = 63 down to 0 (R176). -/
def nibbles (s : Nat) : List Nat :=
  (List.range Config.scalarDigits).reverse.map (fun i => s / 16 ^ i % 16)

/-- One turn of the loop of R176: four doublings, then C[w] added when w is not 0. -/
def windowStep (c : List Cached) (h : Extended) (w : Nat) : Extended :=
  if w = 0 then times16 h else addStep (times16 h) (multiple c w)

/-- The result of `SMULV` for any 256-bit scalar (R176). -/
def smulVar (s : Nat) (e : Extended) : Extended :=
  (nibbles s).foldl (windowStep (multiples e)) Extended.identity

/-- `SMULV` on a stored point (R176): Extended only. -/
def smulVar? (s : Nat) : Point → Option Point
  | .extended e => some (.extended (smulVar s e))
  | .projective _ => none
  | .completed _ => none
  | .cached _ => none

end Sys2Proof.Machine
end

