-- ==== Sys2Proof/Machine/ScalarCommands.lean ====
section
/-! DEFINITION. The scalar multiplication commands (spec/42_scalar.md R170, R172, R176). -/

namespace Sys2Proof.Machine

/-- `SMULB pd, bs` (R172): [s]B for s = int(B[bs]), or RANGE when bit 255 of the buffer is 1. -/
def execSmulb (pd : PReg) (bs : BReg) (s : State) : Answer := scalarP pd bs smulBase? s

/-- `SMULV pd, ps, bs` (R176): [s]P[ps] for s = int(B[bs]), every 256-bit scalar accepted. -/
def execSmulv (pd ps : PReg) (bs : BReg) (s : State) : Answer := unaryP pd ps (smulVar? (s.readB bs).toNat) s

end Sys2Proof.Machine
end

