-- ==== Sys2Proof/Machine/SystemCommands.lean ====
section
/-! DEFINITION. The system commands (spec/43_system.md R190 to R194). None has a source register, so each ends
with OK on every state (R190). -/

namespace Sys2Proof.Machine

/-- `NOP` (R191): its one effect is ERR = OK. -/
def execNop (s : State) : Answer := s.done

/-- `WIPE` (R192): every register Empty, every buffer zero, cf = 0; STICKY stays. -/
def execWipe (s : State) : Answer := s.wipe.done

/-- `CSET i` (R193): `cf <- i`. -/
def execCset (i : Bool) (s : State) : Answer := (s.writeCf i).done

/-- `BLDL bd` (R194): `B[bd] <- le32(L)`. -/
def execBldl (bd : BReg) (s : State) : Answer := (s.writeB bd groupOrderBytes).done

end Sys2Proof.Machine
end

