-- ==== Sys2Proof/Machine/Dispatch.lean ====
section
/-! DEFINITION. The meaning of every command: one arm a row of spec/30_encoding.md R74. -/

namespace Sys2Proof.Machine

def exec (i : Instr) (s : State) : Host.Outcome State Fault Refusal :=
  match i with
  | .nop => Sys2Proof.Machine.execNop s
  | .wipe => Sys2Proof.Machine.execWipe s
  | .cset b => Sys2Proof.Machine.execCset b s
  | .bldl bd => Sys2Proof.Machine.execBldl bd s
  | .fzero fd => Sys2Proof.Machine.execFzero fd s
  | .fone fd => Sys2Proof.Machine.execFone fd s
  | .fmov fd fs => Sys2Proof.Machine.execFmov fd fs s
  | .fadd fd fs1 fs2 => Sys2Proof.Machine.execFadd fd fs1 fs2 s
  | .fsub fd fs1 fs2 => Sys2Proof.Machine.execFsub fd fs1 fs2 s
  | .fneg fd fs => Sys2Proof.Machine.execFneg fd fs s
  | .fmul fd fs1 fs2 => Sys2Proof.Machine.execFmul fd fs1 fs2 s
  | .fsq fd fs => Sys2Proof.Machine.execFsq fd fs s
  | .fsq2 fd fs => Sys2Proof.Machine.execFsq2 fd fs s
  | .finv fd fs => Sys2Proof.Machine.execFinv fd fs s
  | .fcneg fd fs => Sys2Proof.Machine.execFcneg fd fs s
  | .fcsel fd fs1 fs2 => Sys2Proof.Machine.execFcsel fd fs1 fs2 s
  | .fisneg fs => Sys2Proof.Machine.execFisneg fs s
  | .fisnz fs => Sys2Proof.Machine.execFisnz fs s
  | .fenc bd fs => Sys2Proof.Machine.execFenc bd fs s
  | .fdec fd bs => Sys2Proof.Machine.execFdec fd bs s
  | .pident pd => Sys2Proof.Machine.execPident pd s
  | .pbase pd => Sys2Proof.Machine.execPbase pd s
  | .pmov pd ps => Sys2Proof.Machine.execPmov pd ps s
  | .pneg pd ps => Sys2Proof.Machine.execPneg pd ps s
  | .padd pd ps1 ps2 => Sys2Proof.Machine.execPadd pd ps1 ps2 s
  | .psub pd ps1 ps2 => Sys2Proof.Machine.execPsub pd ps1 ps2 s
  | .pdbl pd ps => Sys2Proof.Machine.execPdbl pd ps s
  | .pcvt pd ps v => Sys2Proof.Machine.execPcvt pd ps v s
  | .pgetc fd ps k => Sys2Proof.Machine.execPgetc fd ps k s
  | .penc bd ps => Sys2Proof.Machine.execPenc bd ps s
  | .pdec pd bs => Sys2Proof.Machine.execPdec pd bs s
  | .pdecnv pd bs => Sys2Proof.Machine.execPdecnv pd bs s
  | .padde pd ps1 ps2 => Sys2Proof.Machine.execPadde pd ps1 ps2 s
  | .smulb pd bs => Sys2Proof.Machine.execSmulb pd bs s
  | .smulv pd ps bs => Sys2Proof.Machine.execSmulv pd ps bs s

end Sys2Proof.Machine
end

