-- ==== Sys2Proof/Machine/Host.lean ====
section
/-! DEFINITION. The host window: `MemRead`, `MemWrite`, the command register and the platform's reset
(spec/20_memory.md R50 to R61, spec/70_reset_and_hazards.md R250). Offsets are relative to `BASE` (R50). -/

namespace Sys2Proof.Machine

/-- A 32-bit write of `w` to CMD (R54): the command `w`, executed whole; a word that is no command ends with
ILLEGAL (R75, R221). -/
def runCommand (w : Word) (s : State) : Answer :=
  match decode w with
  | .ok i => exec i s
  | .error _ => s.raise .illegal

/-- The byte at window offset `off` seen by a read of `n` bytes at `addr` (R52): a buffer byte, a byte of the
STATUS word when all four are read at once, else 0. -/
def windowByte (s : State) (addr n off : Nat) : Byte :=
  if Config.bufferBase ≤ off then s.mem.read off
  else if n = 4 ∧ addr = Config.statusOffset then s.status.extractLsb' (8 * (off - Config.statusOffset)) 8
  else 0

/-- The bytes `addr + (n - j) .. addr + n - 1` of a read, the first least significant (R52, R57). -/
def memReadFrom (s : State) (addr n : Nat) : (j : Nat) → Nat
  | 0 => 0
  | j + 1 => (windowByte s addr n (addr + (n - (j + 1)))).toNat + 256 * memReadFrom s addr n j

/-- `MemRead(addr, n)`, a defined host read (R52, R55): a function of the state, with no side effect. -/
def memRead (s : State) (addr n : Nat) : Word := BitVec.ofNat 32 (memReadFrom s addr n n)

/-- `MemWrite(addr, n, v)`, a defined host write (R53): buffer bytes, a command, or ignored. -/
def memWrite (s : State) (addr n : Nat) (v : Word) : Answer :=
  if Config.bufferBase ≤ addr then .next { s with mem := s.mem.writeLE addr n v.toNat }
  else if addr = Config.cmdOffset ∧ n = 4 then runCommand v s
  else .next s

/-- What the spec does not define is no step of the model (R58): a size other than 1, 2, 4, an access past
offset 0xFF, a misaligned access. -/
def guardAccess (addr n : Nat) (k : Answer) : Answer :=
  if n ≠ 1 ∧ n ≠ 2 ∧ n ≠ 4 then .refused .badAccessSize
  else if Config.windowBytes < addr + n then .fault .outsideWindow
  else if addr % n ≠ 0 then .refused .misalignedAccess
  else k

/-- One event from outside (spec/44_host_sequences.md R210). -/
def hostAccess (a : HostAccess) (s : State) : Answer :=
  match a with
  | .read addr n => guardAccess addr n (.next { s with readData := memRead s addr n })
  | .write addr n v => guardAccess addr n (memWrite s addr n v)
  | .reset => .next s.resetEvent

/-- The window offset of a bus address, for the window at `base` (R50); an address below the window is as far
outside it as one past its end (R60). -/
def windowOffset (base addr : Nat) : Nat := if base ≤ addr then addr - base else Config.windowBytes

/-- An access given by bus addresses, as the window at `BASE = base` sees it (R50): `BASE` is a parameter of
the platform, and no rule depends on its value. -/
def HostAccess.atBus (base : Nat) : HostAccess → HostAccess
  | .read addr n => .read (windowOffset base addr) n
  | .write addr n v => .write (windowOffset base addr) n v
  | .reset => .reset

end Sys2Proof.Machine
end

