-- ==== Sys2Proof/Machine/Step.lean ====
section
/-! DEFINITION. One step of the machine: the host's next access takes effect, wholly (spec/20_memory.md R54,
R61); with none pending EDCORE is idle (spec/10_state.md R20). -/

namespace Sys2Proof.Machine

/-- One step: the first pending access is taken from the list and performed; with none pending nothing
changes. -/
def step (s : State) : Host.Outcome State Fault Refusal :=
  match s.pending with
  | [] => .next s
  | a :: rest => hostAccess a { s with pending := rest }

/-- `s` with the host about to write the command word `w` to CMD: EDCORE has no stored program (R27), so the
"next instruction" is whatever the host writes next (log entry 2). -/
def State.withFetchWord (s : State) (nbits w : Nat) : State :=
  { s with pending := .write Config.cmdOffset 4 (BitVec.ofNat 32 (w % 2 ^ nbits)) :: s.pending }

end Sys2Proof.Machine
end

