-- ==== Sys2Proof/Machine/HostSequences.lean ====
section
/-! DEFINITION. The host routines that drive EDCORE (spec/44_host_sequences.md R200 to R209): key derivation
and the birational conversion, as functions that issue the accesses of their sequences one after another. They
are host software, out of the hardware (spec/00_scope.md R4); the hash and the random source are arguments
(spec/93_implementation_defined.md row 18). A routine answers `none` only if an access of it had no next
state. -/

namespace Sys2Proof.Machine

/-! ## Clamping and the small-order check -/

/-- The masks of a clamp: AND for byte 0, AND for byte 31, OR for byte 31 (R201). -/
structure ClampMasks where
  and0 : Byte
  and31 : Byte
  or31 : Byte
  deriving DecidableEq, Repr

/-- `CLAMP_ED25519`, used by `seed_keypair` (R201, R203). -/
def clampEd25519 : ClampMasks := ⟨0xF8, 0x3F, 0x40⟩

/-- `CLAMP_X25519`, used by `sk_to_curve25519` (R201, R206): a constant of its own with the same value. -/
def clampX25519 : ClampMasks := ⟨0xF8, 0x3F, 0x40⟩

/-- `Clamp(h)` with the given masks (R200): bytes 0 and 31 masked, every other byte kept. -/
def clamp (m : ClampMasks) (h : Bytes32) : Bytes32 :=
  ((h.extractLsb' 248 8 &&& m.and31) ||| m.or31) ++ h.extractLsb' 8 240 ++ (h.extractLsb' 0 8 &&& m.and0)

/-- The seven strings of R202, as the integers `int(s)`: y = 0, y = 1, the two y of order 8, p-1, p, p+1. -/
def smallOrderStrings : List Nat :=
  [ 0
  , 1
  , 0x05fc536d880238b13933c6d305acdfd5f098eff289f4c345b027b2c28f95e826
  , 0x7a03ac9277fdc74ec6cc392cfa53202a0f67100d760b3cba4fd84d3d706a17c7
  , fieldPrime - 1
  , fieldPrime
  , fieldPrime + 1 ]

/-- `HasSmallOrder(s)`: s with bit 255 cleared is one of the seven (R202). -/
def hasSmallOrder (s : Bytes32) : Bool := smallOrderStrings.contains (s.toNat % 2 ^ 255)

/-! ## One access after another -/

/-- One access, done when it has a next state. -/
def issue (a : HostAccess) (s : State) : Option State :=
  match hostAccess a s with
  | .next t => some t
  | .fault _ => none
  | .refused _ => none

/-- A command: a 32-bit write of its word to CMD (R54). -/
def command (i : Instr) (s : State) : Option State := issue (.write Config.cmdOffset 4 (encode i)) s

/-- The last `n` of the eight 32-bit writes of `host.write bK, v`, from word `j` on. DESIGN CHOICE (log entry 23): R78
says only "host writes that set buffer K"; the width and the order, lowest word first, are the model's. -/
def putWords (k : BReg) (v : Bytes32) : (n j : Nat) → State → Option State
  | 0, _, s => some s
  | n + 1, j, s => (issue (.write (bufferOffset k + 4 * j) 4 (v.extractLsb' (32 * j) 32)) s).bind (putWords k v n (j + 1))

/-- `host.write bK, v` (R78), as eight 32-bit writes (log entry 23). -/
def putBuffer (k : BReg) (v : Bytes32) (s : State) : Option State := putWords k v 8 0 s

/-- The last `n` of the eight 32-bit reads of `host.read bK`, from word `j` on: the number read and the state after.
DESIGN CHOICE (log entry 23): R78 says only "host reads of it"; the width and the order, lowest word first, are the
model's. -/
def getWords (k : BReg) : (n j : Nat) → State → Option (Nat × State)
  | 0, _, s => some (0, s)
  | n + 1, j, s =>
    (issue (.read (bufferOffset k + 4 * j) 4) s).bind fun t =>
      (getWords k n (j + 1) t).map fun r => (t.readData.toNat + 2 ^ 32 * r.1, r.2)

/-- `host.read bK` (R78), as eight 32-bit reads (log entry 23). -/
def getBuffer (k : BReg) (s : State) : Option (Bytes32 × State) :=
  (getWords k 8 0 s).map fun r => (BitVec.ofNat 256 r.1, r.2)

/-- `host.status`: a 32-bit read of STATUS (R55, R78). -/
def getStatus (s : State) : Option (Word × State) :=
  (issue (.read Config.statusOffset 4) s).map fun t => (t.readData, t)

/-- STATUS.ERR of a STATUS word (R28). -/
def statusErr (w : Word) : BitVec 4 := w.extractLsb' 4 4

/-- STATUS.CF of a STATUS word (R28). -/
def statusCf (w : Word) : Bool := w.getLsbD 0

/-! ## The routines -/

/-- The source's failures (R208, R227 to R229). -/
inductive HostFailure
  /-- The bytes encode no point: ERR = DECODE after `PDECNV` (R208). -/
  | decode
  /-- Small-order or residual torsion: a verdict of the host (R208, R228). -/
  | subgroup
  /-- The random source failed (R204, R229). -/
  | randomSource
  deriving DecidableEq, Repr

/-- A 64-byte secret key, `seed ‖ pk` (R203). -/
structure SecretKey where
  seed : Bytes32
  pk : Bytes32
  deriving DecidableEq, Repr

/-- `seed_keypair(seed)` (R203), for a 64-byte `hash512` whose low 256 bits are digest bytes 0 to 31: the accesses of
the rule's listing, up to the `WIPE`. DESIGN CHOICE (log entry 14): the read of STATUS that the host "should still" do
after the sequence (a liberty in R210) is no part of it; `seedKeypairChecked` is the routine with that read. Safe. -/
def seedKeypair (hash512 : Bytes32 → BitVec 512) (seed : Bytes32) (s : State) :
    Option ((Bytes32 × SecretKey) × State) := do
  let c := clamp clampEd25519 ((hash512 seed).setWidth 256)
  let s ← putBuffer 0 c s
  let s ← command (.smulb 0 0) s
  let s ← command (.penc 1 0) s
  let (pk, s) ← getBuffer 1 s
  let s ← command .wipe s
  pure ((pk, ⟨seed, pk⟩), s)

/-- The host's check after a sequence: a 32-bit read of STATUS, and whether its ERR is non-zero, "a fatal fault of the
platform" (R203). -/
def platformFault (s : State) : Option (Bool × State) :=
  (getStatus s).map fun r => (decide (statusErr r.1 ≠ 0), r.2)

/-- `seed_keypair(seed)` followed by the read of STATUS that R203 recommends: no key pair (`none`) when ERR is not zero.
DESIGN CHOICE (log entry 14): the read comes after the listing's last access, the `WIPE`, whose ERR it then sees. -/
def seedKeypairChecked (hash512 : Bytes32 → BitVec 512) (seed : Bytes32) (s : State) :
    Option (Option (Bytes32 × SecretKey) × State) := do
  let (keys, s) ← seedKeypair hash512 seed s
  let (fatal, s) ← platformFault s
  pure (if fatal then none else some keys, s)

/-- `keypair()` (R204), over `seedKeypair` without the optional read of STATUS (log entry 14): `random` is what `randombytes(32)` gave, `none` when the source failed; then no access
is issued. -/
def keypair (hash512 : Bytes32 → BitVec 512) (random : Option Bytes32) (s : State) :
    Option (Except HostFailure (Bytes32 × SecretKey) × State) :=
  match random with
  | none => some (.error .randomSource, s)
  | some seed => (seedKeypair hash512 seed s).map fun r => (.ok r.1, r.2)

/-- The commands of R205 after the subgroup test: x_mont = (1 + y) / (1 - y) into b2, its bytes read, and the
wipe. -/
def montgomeryX (s : State) : Option (Bytes32 × State) := do
  let s ← command (.pgetc 1 0 1) s
  let s ← command (.fone 2) s
  let s ← command (.fsub 3 2 1) s
  let s ← command (.fadd 4 2 1) s
  let s ← command (.finv 3 3) s
  let s ← command (.fmul 4 4 3) s
  let s ← command (.fenc 2 4) s
  let (x, s) ← getBuffer 2 s
  let s ← command .wipe s
  pure (x, s)

/-- `pk_to_curve25519(ed_pk)` (R205): the X = 0 test of R209, the division of the birational map. -/
def pkToCurve25519 (edPk : Bytes32) (s : State) : Option (Except HostFailure Bytes32 × State) :=
  if hasSmallOrder edPk then some (.error .subgroup, s)
  else do
    let s ← putBuffer 0 edPk s
    let s ← command (.pdecnv 0 0) s
    let (st, s) ← getStatus s
    if statusErr st = ResultCode.decode.number then
      let s ← command .wipe s
      pure (.error .decode, s)
    else
      let s ← command (.bldl 1) s
      let s ← command (.smulv 1 0 1) s
      let s ← command (.pgetc 0 1 0) s
      let s ← command (.fisnz 0) s
      let (st, s) ← getStatus s
      if statusCf st then
        let s ← command .wipe s
        pure (.error .subgroup, s)
      else
        let (x, s) ← montgomeryX s
        pure (.ok x, s)

/-- `sk_to_curve25519(ed_sk)` (R206): no command; the hash of the seed half, clamped. -/
def skToCurve25519 (hash512 : Bytes32 → BitVec 512) (edSk : SecretKey) : Bytes32 :=
  clamp clampX25519 ((hash512 edSk.seed).setWidth 256)

end Sys2Proof.Machine
end

