-- ==== Sys2Proof/Safety.lean ====
section
/-! DEFINITION. What counts as a good state and as a safe run. The invariants are those of spec/10_state.md R33
and the canonical form of memory; a run is safe when no command of it ended with a fault of the host program
(spec/60_exceptions.md R221, R223). -/

namespace Sys2Proof.Machine

/-- R33 (a), (b), (c) for Extended. -/
abbrev Extended.Valid (e : Extended) : Prop := e.z ≠ 0 ∧ e.aff.OnCurve ∧ e.x * e.y = e.z * e.t

/-- R33 (a), (b) for Projective. -/
abbrev Projective.Valid (q : Projective) : Prop := q.z ≠ 0 ∧ q.aff.OnCurve

/-- R33 (a), (b) for Completed. -/
abbrev Completed.Valid (c : Completed) : Prop := c.z ≠ 0 ∧ c.t ≠ 0 ∧ c.aff.OnCurve

/-- R33 (a), (b), (d) for Cached. -/
abbrev Cached.Valid (k : Cached) : Prop :=
  k.z ≠ 0 ∧ k.aff.OnCurve ∧ 2 * k.z * k.t2d = curveD * (k.ypx * k.ypx - k.ymx * k.ymx)

/-- The invariants of a written point register (R33). -/
def Point.Valid : Point → Prop
  | .extended e => e.Valid
  | .projective q => q.Valid
  | .completed c => c.Valid
  | .cached k => k.Valid

/-- Every written point register satisfies R33. -/
def State.PointsValid (s : State) : Prop := ∀ (i : PReg) (q : Point), s.readP i = some q → q.Valid

/-- The window's storage is in canonical form and lists buffer bytes only. -/
def State.MemValid (s : State) : Prop := s.mem.wf = true ∧ s.mem.inBuffers = true

/-- The invariant of the machine: R33 and the memory form. -/
structure State.Inv (s : State) : Prop where
  mem : s.MemValid
  points : s.PointsValid

/-! ## What a command needs to run to its end (R130 (f), R230) -/

/-- Every register the command reads is written (R221, R222). -/
def State.SourcesWritten (s : State) (i : Instr) : Prop :=
  (∀ f ∈ i.fieldSources, s.readF f ≠ none) ∧ (∀ p ∈ i.pointSources, s.readP p ≠ none)

/-- The point register holds a representation of this variant. -/
def State.Holds (s : State) (p : PReg) (v : Variant) : Prop := ∃ q, s.readP p = some q ∧ q.variant = v

/-- The variants of the sources are those the command accepts: the table of R130 (f), the pairs of R138, and
component 3 of a Projective representation refused (R139). -/
def State.TagsAccepted (s : State) : Instr → Prop
  | .padd _ ps1 ps2 => s.Holds ps1 .extended ∧ s.Holds ps2 .cached
  | .psub _ ps1 ps2 => s.Holds ps1 .extended ∧ s.Holds ps2 .cached
  | .padde _ ps1 ps2 => s.Holds ps1 .extended ∧ s.Holds ps2 .extended
  | .pdbl _ ps => s.Holds ps .extended ∨ s.Holds ps .projective
  | .pcvt _ ps v =>
    (s.Holds ps .completed ∧ (v = .extended ∨ v = .projective)) ∨
      (s.Holds ps .extended ∧ (v = .projective ∨ v = .cached))
  | .pgetc _ ps k => ¬ (s.Holds ps .projective ∧ k = 3)
  | .penc _ ps => s.Holds ps .extended ∨ s.Holds ps .projective
  | .smulv _ ps _ => s.Holds ps .extended
  | .nop => True
  | .wipe => True
  | .cset _ => True
  | .bldl _ => True
  | .fzero _ => True
  | .fone _ => True
  | .fmov _ _ => True
  | .fadd _ _ _ => True
  | .fsub _ _ _ => True
  | .fneg _ _ => True
  | .fmul _ _ _ => True
  | .fsq _ _ => True
  | .fsq2 _ _ => True
  | .finv _ _ => True
  | .fcneg _ _ => True
  | .fcsel _ _ _ => True
  | .fisneg _ => True
  | .fisnz _ => True
  | .fenc _ _ => True
  | .fdec _ _ => True
  | .pident _ => True
  | .pbase _ => True
  | .pmov _ _ => True
  | .pneg _ _ => True
  | .pdec _ _ => True
  | .pdecnv _ _ => True
  | .smulb _ _ => True

/-- The 32-byte string encodes a point (R141): some x in Fp has `v*x*x = u`. -/
def Encodes (b : Bytes32) : Prop := ∃ x : Fp, decodeV (Fp.ofBytes b) * x * x = decodeU (Fp.ofBytes b)

/-! ## What a command leaves as it was -/

/-- Every field register but those named holds what it held. -/
def State.SameFields (s t : State) (but : List FReg) : Prop := ∀ j, j ∉ but → t.readF j = s.readF j

/-- Every point register but those named holds what it held. -/
def State.SamePoints (s t : State) (but : List PReg) : Prop := ∀ j, j ∉ but → t.readP j = s.readP j

/-- Every byte of memory reads as it did. -/
def State.SameMemory (s t : State) : Prop := ∀ x, t.mem.read x = s.mem.read x

/-- Every byte outside the `n` bytes from `a` on reads as it did. -/
def State.SameMemoryOutside (s t : State) (a n : Nat) : Prop :=
  ∀ x, x < a ∨ a + n ≤ x → t.mem.read x = s.mem.read x

/-- The host's side of the bus is as it was. -/
def State.SameBus (s t : State) : Prop := t.pending = s.pending ∧ t.readData = s.readData

/-- The command completed: ERR is OK and STICKY is as it was (R221, R223). -/
def State.EndsOk (s t : State) : Prop := t.err = .ok ∧ t.sticky = s.sticky

/-! ## Safe runs -/

/-- No command since reset was a fault of the host program: codes 1 to 4 set STICKY, and only reset clears
it (R221, R223). -/
def State.Safe (s : State) : Prop := s.sticky = false

end Sys2Proof.Machine
end

