-- ==== Sys2Proof/Certificates/Slice0/Obligations.lean ====
section
/-! DEFINITION. The statements for the provers, from the numbered rules of spec/. Each docstring names the rules it
formalises. `s` is the state before, `t` the state after. -/

set_option autoImplicit false

open Sys2Proof Sys2Proof.Machine

/-! ## Encoding -/

/-- R70, R72, R73, R74, R76: decoding the word of a command gives back that command, with every operand. -/
def Obligations.DecodeEncode : Prop := ∀ i : Instr, decode (encode i) = .ok i

/-- R74, R76: a word that decodes to a command is the word of that command; no bit of it is ignored. -/
def Obligations.EncodeDecode : Prop := ∀ (w : Word) (i : Instr), decode w = .ok i → encode i = w

/-- R70, R74: a few words written out in the spec's rules and vectors decode to the commands they stand for. -/
def Obligations.DecodeSampleWords : Prop :=
  decode 0x00000000 = .ok .nop ∧
  decode 0x02000001 = .ok (.cset true) ∧
  decode 0x03100000 = .ok (.bldl 1) ∧
  decode 0x13201000 = .ok (.fadd 2 0 1) ∧
  decode 0x1C030000 = .ok (.fisneg 3) ∧
  decode 0x1E140000 = .ok (.fenc 1 4) ∧
  decode 0x24201000 = .ok (.padd 2 0 1) ∧
  decode 0x27540001 = .ok (.pcvt 5 4 .projective) ∧
  decode 0x28000001 = .ok (.pgetc 0 0 1) ∧
  decode 0x2B100000 = .ok (.pdecnv 1 0) ∧
  decode 0x30000000 = .ok (.smulb 0 0) ∧
  decode 0x31101000 = .ok (.smulv 1 0 1)

/-- R74, R76: the decoder reads a word as a row's command exactly when `w AND mask = match` for that row, so at most
one row matches a word. -/
def Obligations.OpcodeTableDecode : Prop :=
  (∀ (w : Word) (r : OpcodeRow), r ∈ opcodeTable →
    (r.matchesWord w ↔ ∃ i, decode w = .ok i ∧ i.mnemonic = r.mnemonic)) ∧
  (∀ (w : Word) (r r' : OpcodeRow), r ∈ opcodeTable → r' ∈ opcodeTable → r.matchesWord w → r'.matchesWord w → r = r')

/-- R75: a word that matches no row of R74 ends with ILLEGAL and changes nothing but STATUS, a word that matches a row
does not, and the opcodes no row has are those outside 0x00-0x03, 0x10-0x1F, 0x20-0x2C, 0x30, 0x31 (221 of 256). -/
def Obligations.IllegalWord : Prop :=
  (∀ (w : Word) (s : State), (∀ r ∈ opcodeTable, ¬ r.matchesWord w) →
    runCommand w s = .next { s with err := .illegal, sticky := true }) ∧
  (∀ (w : Word) (s t : State) (r : OpcodeRow), r ∈ opcodeTable → r.matchesWord w → runCommand w s = .next t →
    t.err ≠ .illegal) ∧
  (∀ w : Word, ¬ ((w.extractLsb' 24 8).toNat ≤ 0x03 ∨
      (0x10 ≤ (w.extractLsb' 24 8).toNat ∧ (w.extractLsb' 24 8).toNat ≤ 0x2C) ∨
      (w.extractLsb' 24 8).toNat = 0x30 ∨ (w.extractLsb' 24 8).toNat = 0x31) →
    ∀ r ∈ opcodeTable, ¬ r.matchesWord w) ∧
  ((List.range 256).filter fun op =>
    !(opcodeTable.any fun r => decide ((r.pattern.extractLsb' 24 8).toNat = op))).length = 221

/-! ## The step, reset, the window -/

/-- R54, R61, R75 (and log entry 2): with a 32-bit write of `w` to CMD next, the step is `exec` of the command `w`
decodes to, on the state with that access taken off the list; a word that is no command ends with ILLEGAL. With nothing
pending the step changes nothing: EDCORE is idle (R20); that idling is a step is the model's choice (log entry 2). -/
def Obligations.StepRunsCommand : Prop :=
  (∀ (s : State) (w : Word) (rest : List HostAccess) (i : Instr),
    s.pending = .write Config.cmdOffset 4 w :: rest → decode w = .ok i → step s = exec i { s with pending := rest }) ∧
  (∀ (s : State) (w : Word) (rest : List HostAccess) (r : Reject),
    s.pending = .write Config.cmdOffset 4 w :: rest → decode w = .error r →
    step s = .next { s with pending := rest, err := .illegal, sticky := true }) ∧
  (∀ s : State, s.pending = [] → step s = .next s)

/-- R37: the state after reset. -/
def Obligations.ResetState : Prop :=
  (∀ j, State.reset.readF j = none) ∧ (∀ j, State.reset.readP j = none) ∧ (∀ k, State.reset.readB k = 0) ∧
  State.reset.cf = false ∧ State.reset.err = .ok ∧ State.reset.sticky = false ∧
  memRead State.reset Config.statusOffset 4 = 0

/-- R251: the reset event leaves, from every state, exactly the state of the table: every register Empty, every buffer
zero, cf, ERR, STICKY and the STATUS word 0, reserved offsets reading 0. -/
def Obligations.ResetEvent : Prop :=
  ∀ (s : State) (rest : List HostAccess), s.pending = .reset :: rest → ∃ t, step s = .next t ∧
    (∀ j, t.readF j = none) ∧ (∀ j, t.readP j = none) ∧ (∀ k, t.readB k = 0) ∧
    t.cf = false ∧ t.err = .ok ∧ t.sticky = false ∧ memRead t Config.statusOffset 4 = 0 ∧
    (∀ addr n, (n = 1 ∨ n = 2 ∨ n = 4) → addr % n = 0 → 0x08 ≤ addr → addr + n ≤ 0x80 → memRead t addr n = 0)

/-- R28, R55: a 32-bit read of STATUS gives the word built from cf, STICKY and ERR, bit for bit; shorter reads of it and
all reads of CMD give 0; writes to STATUS are ignored; ERR is one of the six codes; a 32-bit write to CMD executes. -/
def Obligations.StatusRegister : Prop :=
  (∀ s : State, memRead s Config.statusOffset 4 = s.status) ∧
  (∀ s : State, s.status.getLsbD 0 = s.cf ∧ s.status.getLsbD 1 = s.sticky ∧
    s.status.extractLsb' 2 2 = 0 ∧ s.status.extractLsb' 4 4 = s.err.number ∧ s.status.extractLsb' 8 24 = 0) ∧
  (∀ s : State, s.err.number.toNat ≤ 5) ∧
  ResultCode.ok.number = 0 ∧ ResultCode.illegal.number = 1 ∧ ResultCode.uninit.number = 2 ∧
  ResultCode.tag.number = 3 ∧ ResultCode.range.number = 4 ∧ ResultCode.decode.number = 5 ∧
  (∀ (s : State) (addr n : Nat), addr + n ≤ 4 → memRead s addr n = 0) ∧
  (∀ (s : State) (addr n : Nat), n < 4 → 4 ≤ addr → addr + n ≤ 8 → memRead s addr n = 0) ∧
  (∀ (s : State) (addr n : Nat) (v : Word), (n = 1 ∨ n = 2 ∨ n = 4) → addr % n = 0 → 4 ≤ addr → addr + n ≤ 8 →
    hostAccess (.write addr n v) s = .next s) ∧
  (∀ (s : State) (w : Word), hostAccess (.write Config.cmdOffset 4 w) s = runCommand w s)

/-- R52: a defined read returns the integer whose byte j is the byte at offset addr + j: a buffer byte, a byte of the
STATUS word for the 4-byte read of it, else 0; and it changes no state of EDCORE. -/
def Obligations.MemReadRule : Prop :=
  ∀ (s : State) (addr n : Nat), (n = 1 ∨ n = 2 ∨ n = 4) → addr % n = 0 → addr + n ≤ 256 →
    ∃ r : Word, hostAccess (.read addr n) s = .next { s with readData := r } ∧ r.toNat < 2 ^ (8 * n) ∧
      ∀ j < n, r.extractLsb' (8 * j) 8 =
        if 0x80 ≤ addr + j then s.mem.read (addr + j)
        else if n = 4 ∧ addr = 0x04 then s.status.extractLsb' (8 * j) 8
        else 0

/-- R53: a defined write of `v` stores its bytes in the buffer bytes when `addr` is 0x80 or more, executes a command
when it is the 4-byte write at 0x00, and is ignored otherwise. The memory's canonical form is a premise of what is
read back. -/
def Obligations.MemWriteRule : Prop :=
  ∀ (s : State) (addr n : Nat) (v : Word), (n = 1 ∨ n = 2 ∨ n = 4) → addr % n = 0 → addr + n ≤ 256 →
    (0x80 ≤ addr → s.MemValid → ∃ t, hostAccess (.write addr n v) s = .next t ∧ t = { s with mem := t.mem } ∧
      ∀ x, t.mem.read x = if addr ≤ x ∧ x < addr + n then v.extractLsb' (8 * (x - addr)) 8 else s.mem.read x) ∧
    (addr = 0x00 ∧ n = 4 → hostAccess (.write addr n v) s = runCommand v s) ∧
    (addr < 0x80 → ¬ (addr = 0x00 ∧ n = 4) → hostAccess (.write addr n v) s = .next s)

/-- R58: an access whose size is not 1, 2 or 4, that is misaligned, or that runs past offset 0xFF is no step: it has no
next state. Every other access has one. -/
def Obligations.UndefinedAccess : Prop :=
  ∀ (s : State) (addr n : Nat) (v : Word),
    ((∃ t, hostAccess (.read addr n) s = .next t) ↔
      (n = 1 ∨ n = 2 ∨ n = 4) ∧ addr % n = 0 ∧ addr + n ≤ 256) ∧
    ((∃ t, hostAccess (.write addr n v) s = .next t) ↔
      (n = 1 ∨ n = 2 ∨ n = 4) ∧ addr % n = 0 ∧ addr + n ≤ 256)

/-- The names under which the model stops on an access R58 leaves undefined, and their order: the model's choice (log
entry 6). -/
def Obligations.UndefinedAccessNames : Prop :=
  ∀ (s : State) (addr n : Nat) (a : HostAccess), (a = .read addr n ∨ ∃ v, a = .write addr n v) →
    (¬ (n = 1 ∨ n = 2 ∨ n = 4) → hostAccess a s = .refused .badAccessSize) ∧
    ((n = 1 ∨ n = 2 ∨ n = 4) → 256 < addr + n → hostAccess a s = .fault .outsideWindow) ∧
    ((n = 1 ∨ n = 2 ∨ n = 4) → addr + n ≤ 256 → addr % n ≠ 0 → hostAccess a s = .refused .misalignedAccess)

/-- R57 (b): a 4-byte write to a buffer is the same as four 1-byte writes of its bytes, least significant byte at the
lowest offset. -/
def Obligations.ByteOrder : Prop :=
  ∀ (s : State) (addr : Nat) (v : Word), 0x80 ≤ addr → addr % 4 = 0 → addr + 4 ≤ 256 →
    ∃ t1 t2 t3 t4, hostAccess (.write addr 1 (v &&& 0xFF)) s = .next t1 ∧
      hostAccess (.write (addr + 1) 1 ((v >>> 8) &&& 0xFF)) t1 = .next t2 ∧
      hostAccess (.write (addr + 2) 1 ((v >>> 16) &&& 0xFF)) t2 = .next t3 ∧
      hostAccess (.write (addr + 3) 1 (v >>> 24)) t3 = .next t4 ∧
      hostAccess (.write addr 4 v) s = .next t4

/-- R56, R61, R78: the eight 32-bit writes of `host.write bK, v` put the string in buffer K and change nothing else of
EDCORE's state, and the eight reads of `host.read bK` give the string the buffer holds. That these are eight 32-bit
accesses, lowest word first, is the model's choice (log entry 23): R78 leaves width and order open. -/
def Obligations.BufferTransfer : Prop :=
  (∀ (s : State) (k : BReg) (v : Bytes32), s.MemValid → ∃ t, putBuffer k v s = some t ∧ t = { s with mem := t.mem } ∧
    t.readB k = v ∧ s.SameMemoryOutside t (bufferOffset k) 32) ∧
  (∀ (s : State) (k : BReg), ∃ t, getBuffer k s = some (s.readB k, t) ∧ t = { s with readData := t.readData })

/-- R50, R60 (and log entry 7): an access at bus address BASE + offset is the access at that window offset, whatever
BASE is; a bus address below the window is outside it. -/
def Obligations.WindowAddress : Prop :=
  ∀ (base : Nat) (s : State) (n : Nat) (v : Word),
    (∀ off, hostAccess (HostAccess.atBus base (.read (base + off) n)) s = hostAccess (.read off n) s ∧
      hostAccess (HostAccess.atBus base (.write (base + off) n v)) s = hostAccess (.write off n v) s) ∧
    (∀ addr, addr < base → (n = 1 ∨ n = 2 ∨ n = 4) →
      hostAccess (HostAccess.atBus base (.read addr n)) s = .fault .outsideWindow ∧
      hostAccess (HostAccess.atBus base (.write addr n v)) s = .fault .outsideWindow)

/-! ## Result codes -/

/-- R221: what each result code leaves. ILLEGAL, UNINIT, TAG and RANGE change nothing but ERR and STICKY (set to 1);
DECODE empties the destination of the `PDEC` or `PDECNV` and sets ERR, STICKY staying; OK leaves STICKY; and what ERR
holds has no influence on the next command. -/
def Obligations.ResultCodeEffect : Prop :=
  (∀ (w : Word) (s t : State), runCommand w s = .next t →
    (t.err = .ok → t.sticky = s.sticky) ∧
    (t.err = .illegal ∨ t.err = .uninit ∨ t.err = .tag ∨ t.err = .range → t = { s with err := t.err, sticky := true }) ∧
    (t.err = .decode → ∃ pd bs, (decode w = .ok (.pdec pd bs) ∨ decode w = .ok (.pdecnv pd bs)) ∧
      t.readP pd = none ∧ s.SamePoints t [pd] ∧ t.fregs = s.fregs ∧ t.mem = s.mem ∧ t.cf = s.cf ∧
      t.sticky = s.sticky ∧ s.SameBus t)) ∧
  (∀ (w : Word) (s t : State) (e : ResultCode), runCommand w s = .next t → runCommand w { s with err := e } = .next t)

/-- R223: STICKY is set by result codes 1 to 4 and by nothing else, and is cleared only by reset. -/
def Obligations.StickyRule : Prop :=
  (∀ (w : Word) (s t : State), runCommand w s = .next t → (t.sticky = true ↔
    s.sticky = true ∨ t.err = .illegal ∨ t.err = .uninit ∨ t.err = .tag ∨ t.err = .range)) ∧
  (∀ s t : State, step s = .next t → (∀ w rest, s.pending ≠ .write Config.cmdOffset 4 w :: rest) →
    (∀ rest, s.pending ≠ .reset :: rest) → t.sticky = s.sticky) ∧
  (∀ (s : State) (rest : List HostAccess), s.pending = .reset :: rest → ∃ t, step s = .next t ∧ t.sticky = false)

/-- R220, R190, R100 (b), R130 (b): which commands can end with which result code. -/
def Obligations.ResultCodeCauses : Prop :=
  ∀ (i : Instr) (s t : State), exec i s = .next t →
    t.err ≠ .illegal ∧
    (t.err = .uninit → i.fieldSources ≠ [] ∨ i.pointSources ≠ []) ∧
    (t.err = .tag → (∃ pd p q, i = .padd pd p q) ∨ (∃ pd p q, i = .psub pd p q) ∨ (∃ pd p q, i = .padde pd p q) ∨
      (∃ pd p, i = .pdbl pd p) ∨ (∃ pd p v, i = .pcvt pd p v) ∨ (∃ fd p k, i = .pgetc fd p k) ∨
      (∃ bd p, i = .penc bd p) ∨ (∃ pd p bs, i = .smulv pd p bs)) ∧
    (t.err = .range → ∃ pd bs, i = .smulb pd bs) ∧
    (t.err = .decode → ∃ pd bs, i = .pdec pd bs ∨ i = .pdecnv pd bs)

/-- R222: the result code is that of the first cause in the order ILLEGAL, UNINIT, TAG, RANGE, DECODE. -/
def Obligations.Priority : Prop :=
  (∀ (w : Word) (s : State) (r : Reject), decode w = .error r → ∃ t, runCommand w s = .next t ∧ t.err = .illegal) ∧
  (∀ (w : Word) (s : State) (i : Instr), decode w = .ok i → ∃ t, runCommand w s = .next t ∧
    (¬ s.SourcesWritten i → t.err = .uninit) ∧
    (s.SourcesWritten i → ¬ s.TagsAccepted i → t.err = .tag) ∧
    (s.SourcesWritten i → s.TagsAccepted i →
      (∀ pd bs, i = .smulb pd bs → (s.readB bs).getLsbD 255 = true → t.err = .range) ∧
      (∀ pd bs, i = .pdec pd bs ∨ i = .pdecnv pd bs → decodePoint? (s.readB bs) = none → t.err = .decode) ∧
      ((∀ pd bs, i = .smulb pd bs → (s.readB bs).getLsbD 255 = false) →
        (∀ pd bs, i = .pdec pd bs ∨ i = .pdecnv pd bs → decodePoint? (s.readB bs) ≠ none) → t.err = .ok)))

/-- R230: with every source written and of an accepted variant, and bit 255 of the scalar of `SMULB` clear, the command
ends with OK for every operand value, except that `PDEC` and `PDECNV` may end with DECODE. -/
def Obligations.Totality : Prop :=
  ∀ (w : Word) (i : Instr) (s : State), decode w = .ok i → s.SourcesWritten i → s.TagsAccepted i →
    (∀ pd bs, i = .smulb pd bs → (s.readB bs).getLsbD 255 = false) →
    ∃ t, runCommand w s = .next t ∧ (t.err = .ok ∨ (t.err = .decode ∧ ∃ pd bs, i = .pdec pd bs ∨ i = .pdecnv pd bs))

/-- R26: what writes cf and with what, what reads it, and its reset value. Every command but `FCNEG` and `FCSEL` does
the same to all other state whatever cf is. -/
def Obligations.ConditionFlag : Prop :=
  (∀ (i : Instr) (s t : State), exec i s = .next t →
    (∀ fs a, i = .fisneg fs → s.readF fs = some a → t.cf = decide (a.val % 2 = 1)) ∧
    (∀ fs a, i = .fisnz fs → s.readF fs = some a → t.cf = decide (a.val ≠ 0)) ∧
    (∀ b, i = .cset b → t.cf = b) ∧
    (i = .wipe → t.cf = false) ∧
    (t.err ≠ .ok ∨ ((∀ fs, i ≠ .fisneg fs) ∧ (∀ fs, i ≠ .fisnz fs) ∧ (∀ b, i ≠ .cset b) ∧ i ≠ .wipe) → t.cf = s.cf)) ∧
  (∀ (i : Instr) (s t : State) (b : Bool), (∀ fd fs, i ≠ .fcneg fd fs) → (∀ fd fs1 fs2, i ≠ .fcsel fd fs1 fs2) →
    exec i s = .next t → ∃ c, exec i { s with cf := b } = .next { t with cf := c }) ∧
  State.reset.cf = false ∧ (∀ s : State, s.resetEvent.cf = false) ∧ (∀ s : State, s.status.getLsbD 0 = s.cf)

/-! ## System commands -/

/-- R191: `NOP` is the word 0, its one effect is ERR = OK, and any other word with opcode 0x00 is ILLEGAL. -/
def Obligations.NopResult : Prop :=
  encode .nop = 0x00000000 ∧ (∀ s : State, exec .nop s = .next { s with err := .ok }) ∧
  (∀ (w : Word) (s : State), w.extractLsb' 24 8 = 0x00 → w ≠ 0x00000000 →
    ∃ t, runCommand w s = .next t ∧ t.err = .illegal)

/-- R192: `WIPE` empties every register, zeroes every buffer and cf, sets ERR to OK and keeps STICKY: the state after it
is the reset state of R37 but for STICKY (and the host's side of the bus). -/
def Obligations.WipeResult : Prop :=
  encode .wipe = 0x01000000 ∧
  (∀ s : State, ∃ t, exec .wipe s = .next t ∧ (∀ j, t.readF j = none) ∧ (∀ j, t.readP j = none) ∧
    (∀ k, t.readB k = 0) ∧ (∀ x, t.mem.read x = 0) ∧ t.cf = false ∧ s.EndsOk t ∧
    t = { State.reset with sticky := s.sticky, pending := s.pending, readData := s.readData }) ∧
  (∀ (w : Word) (s : State), w.extractLsb' 24 8 = 0x01 → w ≠ 0x01000000 →
    ∃ t, runCommand w s = .next t ∧ t.err = .illegal)

/-- R193: `CSET i` sets cf to i and nothing else; its two words; any other word with opcode 0x02 is ILLEGAL. -/
def Obligations.CsetResult : Prop :=
  encode (.cset false) = 0x02000000 ∧ encode (.cset true) = 0x02000001 ∧
  (∀ (b : Bool) (s : State), exec (.cset b) s = .next { s with cf := b, err := .ok }) ∧
  (∀ (w : Word) (s : State), w.extractLsb' 24 8 = 0x02 → w ≠ 0x02000000 → w ≠ 0x02000001 →
    ∃ t, runCommand w s = .next t ∧ t.err = .illegal)

/-- R194, R9: `BLDL bd` puts the 32 bytes of the group order L in the buffer; any word with opcode 0x03 that is no
`BLDL` word is ILLEGAL. -/
def Obligations.BldlResult : Prop :=
  encode (.bldl 0) = 0x03000000 ∧ encode (.bldl 1) = 0x03100000 ∧ encode (.bldl 2) = 0x03200000 ∧
  encode (.bldl 3) = 0x03300000 ∧
  (∀ (w : Word) (s : State), w.extractLsb' 24 8 = 0x03 → (∀ bd, w ≠ encode (.bldl bd)) →
    ∃ t, runCommand w s = .next t ∧ t.err = .illegal) ∧
  ∀ (bd : BReg) (s : State), s.MemValid → ∃ t, exec (.bldl bd) s = .next t ∧ s.EndsOk t ∧
    (t.readB bd).toNat = 0x1000000000000000000000000000000014def9dea2f79cd65812631a5cf5d3ed ∧
    (t.readB bd).toNat = 2 ^ 252 + 27742317777372353535851937790883648493 ∧
    (∀ j < 32, t.mem.read (bufferOffset bd + j) =
      ([0xed, 0xd3, 0xf5, 0x5c, 0x1a, 0x63, 0x12, 0x58, 0xd6, 0x9c, 0xf7, 0xa2, 0xde, 0xf9, 0xde, 0x14,
        0, 0, 0, 0, 0, 0, 0, 0, 0, 0, 0, 0, 0, 0, 0, 0x10] : List Byte).getD j 0)

/-! ## Field commands -/

/-- R103, R111, R112: `FMOV` copies, `FCNEG` negates when cf = 1, `FCSEL` takes its second source when cf = 1. -/
def Obligations.FieldMoves : Prop :=
  ∀ (s : State) (fd fs fs1 fs2 : FReg) (a b c : Fp),
    s.readF fs = some a → s.readF fs1 = some b → s.readF fs2 = some c →
    (∃ t, exec (.fmov fd fs) s = .next t ∧ s.EndsOk t ∧ t.readF fd = some a) ∧
    (∃ t v, exec (.fcneg fd fs) s = .next t ∧ s.EndsOk t ∧ t.readF fd = some v ∧
      v.val = if s.cf = true then (fieldPrime - a.val) % fieldPrime else a.val) ∧
    (∃ t, exec (.fcsel fd fs1 fs2) s = .next t ∧ s.EndsOk t ∧
      t.readF fd = some (if s.cf = true then c else b))

/-- R101, R102: `FZERO` and `FONE` have no source: they complete on every state. -/
def Obligations.FieldConstants : Prop :=
  ∀ (s : State) (fd : FReg),
    (∃ t, exec (.fzero fd) s = .next t ∧ s.EndsOk t ∧ t.readF fd = some 0) ∧
    (∃ t, exec (.fone fd) s = .next t ∧ s.EndsOk t ∧ t.readF fd = some 1)

/-- R104, R105, R106, R107, R108, R109: `FADD`, `FSUB`, `FNEG`, `FMUL`, `FSQ`, `FSQ2` are the integer operations taken
modulo p, the result in 0..p-1. -/
def Obligations.FieldArithmetic : Prop :=
  ∀ (s : State) (fd fs1 fs2 : FReg) (a b : Fp), s.readF fs1 = some a → s.readF fs2 = some b →
    (∃ t v, exec (.fadd fd fs1 fs2) s = .next t ∧ s.EndsOk t ∧ t.readF fd = some v ∧
      (v.val : Int) = ((a.val : Int) + b.val) % fieldPrime) ∧
    (∃ t v, exec (.fsub fd fs1 fs2) s = .next t ∧ s.EndsOk t ∧ t.readF fd = some v ∧
      (v.val : Int) = ((a.val : Int) - b.val) % fieldPrime) ∧
    (∃ t v, exec (.fmul fd fs1 fs2) s = .next t ∧ s.EndsOk t ∧ t.readF fd = some v ∧
      (v.val : Int) = ((a.val : Int) * b.val) % fieldPrime) ∧
    (∃ t v, exec (.fneg fd fs1) s = .next t ∧ s.EndsOk t ∧ t.readF fd = some v ∧
      v.val = (fieldPrime - a.val) % fieldPrime) ∧
    (∃ t v, exec (.fsq fd fs1) s = .next t ∧ s.EndsOk t ∧ t.readF fd = some v ∧
      v.val = (a.val * a.val) % fieldPrime) ∧
    (∃ t v, exec (.fsq2 fd fs1) s = .next t ∧ s.EndsOk t ∧ t.readF fd = some v ∧
      v.val = (2 * a.val * a.val) % fieldPrime)

/-- R110: `FINV` writes a^(p-2) mod p: the multiplicative inverse of a non-zero source, and 0 for 0, always with OK. -/
def Obligations.FinvResult : Prop :=
  ∀ (s : State) (fd fs : FReg) (a : Fp), s.readF fs = some a →
    ∃ t v, exec (.finv fd fs) s = .next t ∧ s.EndsOk t ∧ t.readF fd = some v ∧
      v.val = a.val ^ (fieldPrime - 2) % fieldPrime ∧ (a ≠ 0 → a * v = 1) ∧ (a = 0 → v = 0)

/-- R118, R119: the chain of `FINV` computes a^(p-2), and that of `Pow58` z^((p-5)/8), which is z^(2^252 - 3). -/
def Obligations.ExponentChains : Prop :=
  ∀ z : Fp, Fp.invChain z = Fp.inv z ∧ (Fp.invChain z).val = z.val ^ (fieldPrime - 2) % fieldPrime ∧
    (Fp.pow58 z).val = z.val ^ ((fieldPrime - 5) / 8) % fieldPrime ∧ (fieldPrime - 5) / 8 = 2 ^ 252 - 3

/-- R113, R114, R12: `FISNEG` sets cf to the least significant bit of the canonical value, `FISNZ` to whether it is not
0; neither changes a register or memory. -/
def Obligations.FieldTests : Prop :=
  ∀ (s : State) (fs : FReg) (a : Fp), s.readF fs = some a →
    exec (.fisneg fs) s = .next { s with cf := decide (a.val % 2 = 1), err := .ok } ∧
    exec (.fisnz fs) s = .next { s with cf := decide (a.val ≠ 0), err := .ok }

/-- R12, R117 (g): 0 is not negative, and of a non-zero value and its negative exactly one is. -/
def Obligations.NegativeParity : Prop :=
  (0 : Fp).isNeg = false ∧ ∀ a : Fp, a ≠ 0 → (a.isNeg = true ↔ (-a).isNeg = false)

/-- R115: `FENC` puts the canonical little-endian bytes in the buffer; bit 255 is 0. -/
def Obligations.FencResult : Prop :=
  ∀ (s : State) (bd : BReg) (fs : FReg) (a : Fp), s.MemValid → s.readF fs = some a →
    ∃ t, exec (.fenc bd fs) s = .next t ∧ s.EndsOk t ∧ (t.readB bd).toNat = a.val ∧ (t.readB bd).getLsbD 255 = false

/-- R116: `FDEC` drops bit 255 and reduces modulo p, on every 32-byte string; `FENC` after `FDEC` returns the string
exactly when its integer is below p. -/
def Obligations.FdecResult : Prop :=
  (∀ (s : State) (fd : FReg) (bs : BReg), ∃ t v, exec (.fdec fd bs) s = .next t ∧ s.EndsOk t ∧
    t.readF fd = some v ∧ v.val = ((s.readB bs).toNat % 2 ^ 255) % fieldPrime) ∧
  (∀ (s t t' : State) (fd : FReg) (bs bd : BReg), s.MemValid → exec (.fdec fd bs) s = .next t →
    exec (.fenc bd fd) t = .next t' → (t'.readB bd = s.readB bs ↔ (s.readB bs).toNat < fieldPrime))

/-! ## Group commands -/

/-- R131, R132, R10: `PIDENT` and `PBASE` write the identity and the base point, Extended, on every state. -/
def Obligations.PointConstants : Prop :=
  ∀ (s : State) (pd : PReg),
    (∃ t, exec (.pident pd) s = .next t ∧ s.EndsOk t ∧ t.readP pd = some (.extended ⟨0, 1, 1, 0⟩)) ∧
    (∃ t, exec (.pbase pd) s = .next t ∧ s.EndsOk t ∧ t.readP pd = some (.extended
      ⟨0x216936d3cd6e53fec0a4e231fdd6dc5c692cc7609525a7b2c9562d608f25d51a,
       0x6666666666666666666666666666666666666666666666666666666666666658, 1,
       0x67875f0fd78b766566ea4e8e64abe37d20f09f80775152f56dde8ab3a5b7dda3⟩)) ∧
    (0x6666666666666666666666666666666666666666666666666666666666666658 : Fp) * 5 = 4 ∧ Affine.base.OnCurve

/-- R133, R134: `PMOV` copies and `PNEG` negates a representation of any variant, component by component. -/
def Obligations.PmovPnegResult : Prop :=
  ∀ (s : State) (pd ps : PReg) (q : Point), s.readP ps = some q →
    (∃ t, exec (.pmov pd ps) s = .next t ∧ s.EndsOk t ∧ t.readP pd = some q) ∧
    (∃ t r, exec (.pneg pd ps) s = .next t ∧ s.EndsOk t ∧ t.readP pd = some r ∧
      (∀ x y z w, q = .extended ⟨x, y, z, w⟩ → r = .extended ⟨-x, y, z, -w⟩) ∧
      (∀ x y z, q = .projective ⟨x, y, z⟩ → r = .projective ⟨-x, y, z⟩) ∧
      (∀ x y z w, q = .completed ⟨x, y, z, w⟩ → r = .completed ⟨-x, y, z, w⟩) ∧
      (∀ p m z w, q = .cached ⟨p, m, z, w⟩ → r = .cached ⟨m, p, z, -w⟩))

/-- R135, R136: `PADD` and `PSUB` on an Extended and a Cached operand write exactly the Completed components of their
pseudocode. -/
def Obligations.AddSubResult : Prop :=
  ∀ (s : State) (pd ps1 ps2 : PReg) (x1 y1 z1 t1 p2 m2 z2 d2 : Fp),
    s.readP ps1 = some (.extended ⟨x1, y1, z1, t1⟩) → s.readP ps2 = some (.cached ⟨p2, m2, z2, d2⟩) →
    (∃ t, exec (.padd pd ps1 ps2) s = .next t ∧ s.EndsOk t ∧ t.readP pd = some (.completed
      ⟨(y1 + x1) * p2 - (y1 - x1) * m2, (y1 + x1) * p2 + (y1 - x1) * m2,
       (z1 * z2 + z1 * z2) + d2 * t1, (z1 * z2 + z1 * z2) - d2 * t1⟩)) ∧
    (∃ t, exec (.psub pd ps1 ps2) s = .next t ∧ s.EndsOk t ∧ t.readP pd = some (.completed
      ⟨(y1 + x1) * m2 - (y1 - x1) * p2, (y1 + x1) * m2 + (y1 - x1) * p2,
       (z1 * z2 + z1 * z2) - d2 * t1, (z1 * z2 + z1 * z2) + d2 * t1⟩))

/-- R137: `PDBL` on an Extended or Projective operand writes exactly the Completed components of its pseudocode, the T
of an Extended operand unused; doubling the identity gives Comp(0, 1, 1, 1). -/
def Obligations.PdblResult : Prop :=
  ∀ (s : State) (pd ps : PReg) (x y z : Fp),
    (s.readP ps = some (.projective ⟨x, y, z⟩) ∨ ∃ w, s.readP ps = some (.extended ⟨x, y, z, w⟩)) →
    ∃ t c, exec (.pdbl pd ps) s = .next t ∧ s.EndsOk t ∧ t.readP pd = some (.completed c) ∧
      c.y = y * y + x * x ∧ c.z = y * y - x * x ∧ c.x = (x + y) * (x + y) - c.y ∧ c.t = 2 * z * z - c.z ∧
      (x = 0 → y = 1 → z = 1 → c = ⟨0, 1, 1, 1⟩)

/-- R138: the four conversions of `PCVT`, component by component; every other pair of variant and target ends with
TAG. -/
def Obligations.PcvtResult : Prop :=
  ∀ (s : State) (pd ps : PReg) (x y z w : Fp),
    (s.readP ps = some (.completed ⟨x, y, z, w⟩) →
      (∃ t, exec (.pcvt pd ps .extended) s = .next t ∧ s.EndsOk t ∧
        t.readP pd = some (.extended ⟨x * w, y * z, z * w, x * y⟩)) ∧
      (∃ t, exec (.pcvt pd ps .projective) s = .next t ∧ s.EndsOk t ∧
        t.readP pd = some (.projective ⟨x * w, y * z, z * w⟩))) ∧
    (s.readP ps = some (.extended ⟨x, y, z, w⟩) →
      (∃ t, exec (.pcvt pd ps .projective) s = .next t ∧ s.EndsOk t ∧ t.readP pd = some (.projective ⟨x, y, z⟩)) ∧
      (∃ t, exec (.pcvt pd ps .cached) s = .next t ∧ s.EndsOk t ∧ t.readP pd = some (.cached
        ⟨y + x, y - x, z, w * 0x2406d9dc56dffce7198e80f2eef3d13000e0149a8283b156ebd69b9426b2f159⟩))) ∧
    (∀ (q : Point) (v : Variant), s.readP ps = some q →
      ¬ ((q.variant = .completed ∧ (v = .extended ∨ v = .projective)) ∨
        (q.variant = .extended ∧ (v = .projective ∨ v = .cached))) →
      exec (.pcvt pd ps v) s = .next { s with err := .tag, sticky := true })

/-- R139, R31: `PGETC` copies component k of the representation; index 3 of a Projective one ends with TAG; component 0
of a valid Extended, Projective or Completed representation is 0 exactly when the affine x is. -/
def Obligations.PgetcResult : Prop :=
  (∀ (s : State) (fd : FReg) (ps : PReg) (k : Fin 4) (a b c d : Fp) (q : Point), s.readP ps = some q →
    (q = .extended ⟨a, b, c, d⟩ ∨ q = .completed ⟨a, b, c, d⟩ ∨ q = .cached ⟨a, b, c, d⟩ ∨
      (q = .projective ⟨a, b, c⟩ ∧ k ≠ 3)) →
    ∃ t, exec (.pgetc fd ps k) s = .next t ∧ s.EndsOk t ∧ t.readF fd = some ([a, b, c, d].getD k.val 0)) ∧
  (∀ (s : State) (fd : FReg) (ps : PReg) (q : Projective), s.readP ps = some (.projective q) →
    exec (.pgetc fd ps 3) s = .next { s with err := .tag, sticky := true }) ∧
  (∀ q : Point, q.Valid → q.variant ≠ .cached → (q.component? 0 = some 0 ↔ q.aff.x = 0))

/-- R140: `PENC` on an Extended or Projective operand writes the canonical y with the sign of x in bit 255, for
(x, y) the affine point the operand denotes; so two representations of one point encode alike. -/
def Obligations.PencResult : Prop :=
  ∀ (s : State) (bd : BReg) (ps : PReg) (q : Point), s.MemValid → s.readP ps = some q →
    (q.variant = .extended ∨ q.variant = .projective) →
    ∃ t, exec (.penc bd ps) s = .next t ∧ s.EndsOk t ∧ t.cf = s.cf ∧
      (t.readB bd).toNat = q.aff.y.val + 2 ^ 255 * (q.aff.x.val % 2)

/-- R141: `PDEC`. With y the string's low 255 bits modulo p, u = y*y - 1 and v = d*y*y + 1: DECODE and the destination
Empty when no x has v*x*x = u; else Ext(x, y, 1, x*y) for the solution x whose parity is bit 255, or x = 0 when u = 0;
and that solution is the only one. -/
def Obligations.PdecResult : Prop :=
  ∀ (s : State) (pd : PReg) (bs : BReg) (y u v : Fp),
    y.val = ((s.readB bs).toNat % 2 ^ 255) % fieldPrime → u = y * y - 1 → v = curveD * y * y + 1 →
    v ≠ 0 ∧
    ((¬ ∃ x : Fp, v * x * x = u) → ∃ t, exec (.pdec pd bs) s = .next t ∧ t.err = .decode ∧ t.readP pd = none) ∧
    ((∃ x : Fp, v * x * x = u) → ∃ t x, exec (.pdec pd bs) s = .next t ∧ s.EndsOk t ∧
      t.readP pd = some (.extended ⟨x, y, 1, x * y⟩) ∧ v * x * x = u ∧
      (u = 0 → x = 0) ∧ (u ≠ 0 → decide (x.val % 2 = 1) = (s.readB bs).getLsbD 255) ∧
      (∀ x' : Fp, v * x' * x' = u → decide (x'.val % 2 = 1) = (s.readB bs).getLsbD 255 → x' = x))

/-- R142: `PDECNV pd, bs` produces the state of `PDEC pd, bs` followed by `PNEG pd, pd`, and on failure that of `PDEC`.
It completes on every string `PDEC` completes on, with Ext(-x, y, 1, -(x*y)). -/
def Obligations.PdecnvResult : Prop :=
  (∀ (s t : State) (pd : PReg) (bs : BReg), exec (.pdec pd bs) s = .next t →
    (t.err = .ok → exec (.pdecnv pd bs) s = exec (.pneg pd pd) t) ∧
    (t.err ≠ .ok → exec (.pdecnv pd bs) s = .next t)) ∧
  (∀ (s : State) (pd : PReg) (bs : BReg) (x y : Fp), decodePoint? (s.readB bs) = some ⟨x, y⟩ →
    ∃ t, exec (.pdecnv pd bs) s = .next t ∧ s.EndsOk t ∧
      t.readP pd = some (.extended ⟨-x, y, 1, -(x * y)⟩))

/-- R143: `PADDE` changes what `pcvt pt, ps2, cach ; padd pd, ps1, pt ; pcvt pd, pd, ext` changes, except that no
scratch register pt is written. It completes on every two Extended operands. -/
def Obligations.PaddeResult : Prop :=
  ∀ (s : State) (pd ps1 ps2 pt : PReg) (e f : Extended), pt ≠ ps1 →
    s.readP ps1 = some (.extended e) → s.readP ps2 = some (.extended f) →
    ∃ t t1 t2 t3, exec (.padde pd ps1 ps2) s = .next t ∧ s.EndsOk t ∧
      exec (.pcvt pt ps2 .cached) s = .next t1 ∧ exec (.padd pd ps1 pt) t1 = .next t2 ∧
      exec (.pcvt pd pd .extended) t2 = .next t3 ∧
      (∀ j, j ≠ pt ∨ j = pd → t.readP j = t3.readP j) ∧ (pt ≠ pd → t.readP pt = s.readP pt) ∧
      t3 = { t with pregs := t3.pregs }

/-- R145, R11: the value theorem of the family, on representations that satisfy R33: what the results of `PADD`, `PSUB`,
`PADDE`, `PDBL`, `PNEG`, `PCVT` and `PMOV` denote. -/
def Obligations.GroupValues : Prop :=
  ∀ (s : State) (pd ps1 ps2 : PReg) (q1 q2 : Point),
    s.readP ps1 = some q1 → s.readP ps2 = some q2 → q1.Valid → q2.Valid →
    (q1.variant = .extended → q2.variant = .cached →
      (∃ t r, exec (.padd pd ps1 ps2) s = .next t ∧ t.readP pd = some r ∧ r.aff = q1.aff.add q2.aff) ∧
      (∃ t r, exec (.psub pd ps1 ps2) s = .next t ∧ t.readP pd = some r ∧ r.aff = q1.aff.add q2.aff.neg)) ∧
    (q1.variant = .extended → q2.variant = .extended →
      ∃ t r, exec (.padde pd ps1 ps2) s = .next t ∧ t.readP pd = some r ∧ r.aff = q1.aff.add q2.aff) ∧
    (q1.variant = .extended ∨ q1.variant = .projective →
      ∃ t r, exec (.pdbl pd ps1) s = .next t ∧ t.readP pd = some r ∧ r.aff = Affine.smul 2 q1.aff) ∧
    (∃ t r, exec (.pneg pd ps1) s = .next t ∧ t.readP pd = some r ∧ r.aff = q1.aff.neg) ∧
    (∃ t r, exec (.pmov pd ps1) s = .next t ∧ t.readP pd = some r ∧ r.aff = q1.aff) ∧
    (∀ v, s.TagsAccepted (.pcvt pd ps1 v) →
      ∃ t r, exec (.pcvt pd ps1 v) s = .next t ∧ t.readP pd = some r ∧ r.variant = v ∧ r.aff = q1.aff)

/-- R145, R140, R141: `PDEC` after `PENC` of a valid point gives Ext(x, y, 1, x*y) for (x, y) the affine point
encoded. -/
def Obligations.PdecAfterPenc : Prop :=
  ∀ (s : State) (bd : BReg) (ps pd : PReg) (q : Point), s.MemValid → s.readP ps = some q → q.Valid →
    (q.variant = .extended ∨ q.variant = .projective) →
    ∃ t t', exec (.penc bd ps) s = .next t ∧ exec (.pdec pd bd) t = .next t' ∧ t.EndsOk t' ∧
      t'.readP pd = some (.extended ⟨q.aff.x, q.aff.y, 1, q.aff.x * q.aff.y⟩)

/-! ## Invariants -/

/-- R33, R144: every step keeps the invariants of every written point register, and the canonical form of memory. -/
def Obligations.StepKeepsInv : Prop := ∀ s t : State, s.Inv → step s = .next t → t.Inv

/-- R33, R37: the reset state satisfies them. -/
def Obligations.ResetInv : Prop := State.reset.Inv

/-! ## Scalar commands -/

/-- R171: the recoding has 64 digits, all but the top one in -8..7, the top one in 0..8, and their weighted sum is the
scalar. -/
def Obligations.RecodeDigits : Prop :=
  ∀ s : Nat, s < 2 ^ 255 → (recode s).length = 64 ∧
    (∀ i < 63, -8 ≤ digit (recode s) i ∧ digit (recode s) i ≤ 7) ∧
    (0 ≤ digit (recode s) 63 ∧ digit (recode s) 63 ≤ 8) ∧
    (∑ i ∈ Finset.range 64, digit (recode s) i * 16 ^ i) = (s : Int)

/-- R173, R174: the selection returns a valid Cached representation of [b * 256^i]B. -/
def Obligations.SelectValue : Prop :=
  ∀ (i : Nat) (b : Int), i < 32 → -8 ≤ b → b ≤ 8 → (select i b).Valid ∧
    (select i b).aff = if b < 0 then (Affine.smul (b.natAbs * 256 ^ i) Affine.base).neg
      else Affine.smul (b.natAbs * 256 ^ i) Affine.base

/-- R172, R175: `SMULB` writes a valid Extended representation of [s]B when bit 255 of the buffer is 0, and ends with
RANGE, nothing but STATUS changed, when it is 1. -/
def Obligations.SmulbResult : Prop :=
  ∀ (s : State) (pd : PReg) (bs : BReg),
    ((s.readB bs).getLsbD 255 = false → ∃ t e, exec (.smulb pd bs) s = .next t ∧ s.EndsOk t ∧
      t.readP pd = some (.extended e) ∧ e.Valid ∧ e.aff = Affine.smul (s.readB bs).toNat Affine.base) ∧
    ((s.readB bs).getLsbD 255 = true → exec (.smulb pd bs) s = .next { s with err := .range, sticky := true })

/-- R176, R177: `SMULV` completes on every Extended operand and every 256-bit scalar; on a valid operand the result is a
valid Extended representation of [s]Q; for s = 0 it is exactly Ext(0, 1, 1, 0). -/
def Obligations.SmulvResult : Prop :=
  ∀ (s : State) (pd ps : PReg) (bs : BReg) (e : Extended), s.readP ps = some (.extended e) →
    ∃ t r, exec (.smulv pd ps bs) s = .next t ∧ s.EndsOk t ∧ t.readP pd = some (.extended r) ∧
      (e.Valid → r.Valid ∧ r.aff = Affine.smul (s.readB bs).toNat e.aff) ∧
      (s.readB bs = 0 → r = ⟨0, 1, 1, 0⟩)

/-- R9, R10, R175: the base point is not the identity and [L]B is, so the result of `SMULB` depends only on the scalar
modulo L. -/
def Obligations.BaseOrder : Prop :=
  Affine.smul groupOrder Affine.base = Affine.identity ∧ Affine.base ≠ Affine.identity ∧
  ∀ m n : Nat, m % groupOrder = n % groupOrder → Affine.smul m Affine.base = Affine.smul n Affine.base

/-! ## Frames -/

/-- R18, R29, R56, R100, R130 (c), R139, R223: what a command with a field register as its destination leaves
unchanged. -/
def Obligations.FrameFieldRegister : Prop :=
  ∀ (i : Instr) (fd : FReg) (s t : State),
    (i = .fzero fd ∨ i = .fone fd ∨ (∃ a, i = .fmov fd a) ∨ (∃ a b, i = .fadd fd a b) ∨ (∃ a b, i = .fsub fd a b) ∨
      (∃ a, i = .fneg fd a) ∨ (∃ a b, i = .fmul fd a b) ∨ (∃ a, i = .fsq fd a) ∨ (∃ a, i = .fsq2 fd a) ∨
      (∃ a, i = .finv fd a) ∨ (∃ a, i = .fcneg fd a) ∨ (∃ a b, i = .fcsel fd a b) ∨ (∃ b, i = .fdec fd b) ∨
      (∃ p k, i = .pgetc fd p k)) →
    exec i s = .next t →
    s.SameFields t [fd] ∧ s.SamePoints t [] ∧ s.SameMemory t ∧ t.cf = s.cf ∧
      t.sticky = (s.sticky || t.err.setsSticky) ∧ s.SameBus t

/-- R18, R29, R56, R130 (c), R141, R170 (c), R223: what a command with a point register as its destination leaves
unchanged. -/
def Obligations.FramePointRegister : Prop :=
  ∀ (i : Instr) (pd : PReg) (s t : State),
    (i = .pident pd ∨ i = .pbase pd ∨ (∃ a, i = .pmov pd a) ∨ (∃ a, i = .pneg pd a) ∨ (∃ a b, i = .padd pd a b) ∨
      (∃ a b, i = .psub pd a b) ∨ (∃ a, i = .pdbl pd a) ∨ (∃ a v, i = .pcvt pd a v) ∨ (∃ b, i = .pdec pd b) ∨
      (∃ b, i = .pdecnv pd b) ∨ (∃ a b, i = .padde pd a b) ∨ (∃ b, i = .smulb pd b) ∨ (∃ a b, i = .smulv pd a b)) →
    exec i s = .next t →
    s.SameFields t [] ∧ s.SamePoints t [pd] ∧ s.SameMemory t ∧ t.cf = s.cf ∧
      t.sticky = (s.sticky || t.err.setsSticky) ∧ s.SameBus t

/-- R18, R51, R56, R115, R140, R194, R223: what a command with a buffer as its destination leaves unchanged: the bytes
it stores are the 32 from `bufferOffset bd` on, and every other byte reads as before. -/
def Obligations.FrameBuffer : Prop :=
  ∀ (i : Instr) (bd : BReg) (s t : State),
    (i = .bldl bd ∨ (∃ a, i = .fenc bd a) ∨ (∃ p, i = .penc bd p)) → exec i s = .next t →
    s.SameFields t [] ∧ s.SamePoints t [] ∧ (∀ a, a = bufferOffset bd → s.SameMemoryOutside t a 32) ∧ t.cf = s.cf ∧
      t.sticky = (s.sticky || t.err.setsSticky) ∧ s.SameBus t

/-- R26, R113, R114, R191, R193, R223: what `FISNEG`, `FISNZ`, `CSET` and `NOP` leave unchanged: everything but cf (and
`NOP` cf too) and the result code. -/
def Obligations.FrameFlag : Prop :=
  ∀ (i : Instr) (s t : State),
    ((∃ a, i = .fisneg a) ∨ (∃ a, i = .fisnz a) ∨ (∃ b, i = .cset b) ∨ i = .nop) → exec i s = .next t →
    s.SameFields t [] ∧ s.SamePoints t [] ∧ s.SameMemory t ∧ (i = .nop → t.cf = s.cf) ∧
      t.sticky = (s.sticky || t.err.setsSticky) ∧ s.SameBus t

/-! ## Host-side functions -/

/-- R200, R201: the clamp, with either named constant: a multiple of 8 in 2^254 .. 2^255 - 1 that agrees with its
argument on bits 3 to 253. The last clause, that the masks 0xF8, 0x7F, 0x40 define the same function, is no sentence of
the source: R200 marks it as an inference ("[derived: bit 254 is set last in both]"). -/
def Obligations.ClampResult : Prop :=
  ∀ (m : ClampMasks) (h : Bytes32), m = clampEd25519 ∨ m = clampX25519 →
    (clamp m h).toNat % 8 = 0 ∧ 2 ^ 254 ≤ (clamp m h).toNat ∧ (clamp m h).toNat < 2 ^ 255 ∧
    (∀ k, 3 ≤ k → k ≤ 253 → (clamp m h).getLsbD k = h.getLsbD k) ∧
    clamp m h = clamp ⟨0xF8, 0x7F, 0x40⟩ h

/-- R202: every string the small-order check rejects decodes to a point of order dividing 8. -/
def Obligations.SmallOrderStrings : Prop :=
  ∀ b : Bytes32, hasSmallOrder b = true → ∃ a, decodePoint? b = some a ∧ Affine.smul 8 a = Affine.identity
end

