-- ==== Sys2Proof/Laws/Edwards.lean ====
section
/-! SUPPORT. The affine addition law of the twisted Edwards curve -x^2 + y^2 = 1 + d x^2 y^2 over any field (the law of
spec/00_scope.md R11): it is complete when d is no square and -1 is one, closed on the curve, and associative. The
coefficients of the polynomial identities are those of the division by the three curve equations. -/

set_option Elab.async false

namespace Sys2Proof.Laws.Edwards

variable {K : Type*} [Field K]

/-- The curve equation. -/
def Curve (d x y : K) : Prop := -(x * x) + y * y - 1 - d * x * x * y * y = 0

/-- The x coordinate of a sum. -/
def addX (d x1 y1 x2 y2 : K) : K := (x1 * y2 + x2 * y1) / (1 + d * x1 * x2 * y1 * y2)

/-- The y coordinate of a sum. -/
def addY (d x1 y1 x2 y2 : K) : K := (y1 * y2 + x1 * x2) / (1 - d * x1 * x2 * y1 * y2)

/-- No denominator of the addition law is 0 on the curve. -/
def Complete (d : K) : Prop := ∀ x1 y1 x2 y2 : K, Curve d x1 y1 → Curve d x2 y2 →
  1 + d * x1 * x2 * y1 * y2 ≠ 0 ∧ 1 - d * x1 * x2 * y1 * y2 ≠ 0

/-- Were the product `k = d*x1*x2*y1*y2` of two points a sign, d would be a square. -/
theorem isSquare_of_sign {d i x1 y1 x2 y2 : K} (h2 : (2 : K) ≠ 0) (hi : i * i = -1)
    (e1 : Curve d x1 y1) (e2 : Curve d x2 y2)
    (hk : (d * x1 * x2 * y1 * y2) * (d * x1 * x2 * y1 * y2) = 1) : IsSquare d := by
  unfold Curve at e1 e2
  generalize hkd : d * x1 * x2 * y1 * y2 = k at hk
  have hk0 : k ≠ 0 := by rintro rfl; simp at hk
  have hx1 : x1 ≠ 0 := by rintro rfl; apply hk0; rw [← hkd]; ring
  have hy1 : y1 ≠ 0 := by rintro rfl; apply hk0; rw [← hkd]; ring
  have hy2 : y2 ≠ 0 := by rintro rfl; apply hk0; rw [← hkd]; ring
  have root : ∀ u v : K, v ≠ 0 → u * u = d * x1 * x1 * y1 * y1 * (v * v) → IsSquare d := by
    intro u v hv h
    refine ⟨u / (x1 * y1 * v), ?_⟩
    field_simp
    linear_combination -h
  have A : (i * x1 + k * y1) * (i * x1 + k * y1) = d * x1 * x1 * y1 * y1 * ((i * x2 + y2) * (i * x2 + y2)) := by
    subst hkd
    linear_combination (x1 * x1 - d * x1 * x1 * y1 * y1 * x2 * x2) * hi + (y1 * y1 - 1) * hk + e1
      - d * x1 * x1 * y1 * y1 * e2
  have B : (i * x1 - k * y1) * (i * x1 - k * y1) = d * x1 * x1 * y1 * y1 * ((i * x2 - y2) * (i * x2 - y2)) := by
    subst hkd
    linear_combination (x1 * x1 - d * x1 * x1 * y1 * y1 * x2 * x2) * hi + (y1 * y1 - 1) * hk + e1
      - d * x1 * x1 * y1 * y1 * e2
  by_cases hp : i * x2 + y2 = 0
  · refine root _ (i * x2 - y2) (fun hm => ?_) B
    have : 2 * y2 = 0 := by linear_combination hp - hm
    exact (mul_ne_zero h2 hy2) this
  · exact root _ _ hp A

/-- The law is complete when d is no square and -1 is one (spec/41_group.md R144). -/
theorem complete_of_not_square {d i : K} (h2 : (2 : K) ≠ 0) (hi : i * i = -1) (hd : ¬ IsSquare d) : Complete d := by
  intro x1 y1 x2 y2 e1 e2
  constructor
  · intro h
    exact hd (isSquare_of_sign h2 hi e1 e2 (by linear_combination (d * x1 * x2 * y1 * y2 - 1) * h))
  · intro h
    exact hd (isSquare_of_sign h2 hi e1 e2 (by linear_combination (-(d * x1 * x2 * y1 * y2) - 1) * h))

/-- The curve equation of a point given by fractions. -/
theorem curve_frac {d a p b q : K} (hp : p ≠ 0) (hq : q ≠ 0)
    (h : -(a * a) * (q * q) + b * b * (p * p) - p * p * (q * q) - d * a * a * b * b = 0) : Curve d (a / p) (b / q) := by
  unfold Curve
  field_simp
  linear_combination h

/-- A sum of two points of the curve is on the curve. -/
theorem curve_add {d x1 y1 x2 y2 : K} (hc : Complete d) (h1 : Curve d x1 y1) (h2 : Curve d x2 y2) :
    Curve d (addX d x1 y1 x2 y2) (addY d x1 y1 x2 y2) := by
  obtain ⟨hp, hm⟩ := hc x1 y1 x2 y2 h1 h2
  refine curve_frac hp hm ?_
  unfold Curve at h1 h2
  linear_combination
    (y2^4 - 4*x2^2*y2^2 - 2*x2^2*y2^2*d + 2*x2^2*y2^4 + x2^4 - 2*x2^4*y2^2 - 2*x2^4*y2^4*d -
      x2^4*y2^4*d^2 - y1^2*x2^2*y2^4*d + y1^2*x2^4*y2^2*d + y1^2*x2^4*y2^4*d^2 + x1^2*x2^2*y2^4*d -
      x1^2*x2^4*y2^2*d - x1^2*x2^4*y2^4*d^2 + x1^2*y1^2*x2^4*y2^4*d^3) * h1 +
    (1 + y2^2 - x2^2 + 2*x2^2*y2^2 + x2^2*y2^2*d - y1^2*y2^2 + y1^2*x2^2 - 2*y1^2*x2^2*y2^2 -
      2*y1^2*x2^2*y2^2*d + y1^4*x2^2*y2^2*d + x1^2*y2^2 - x1^2*x2^2 + 2*x1^2*x2^2*y2^2 +
      2*x1^2*x2^2*y2^2*d + x1^4*x2^2*y2^2*d) * h2

theorem addX_comm (d x1 y1 x2 y2 : K) : addX d x1 y1 x2 y2 = addX d x2 y2 x1 y1 := by
  unfold addX
  congr 1 <;> ring

theorem addY_comm (d x1 y1 x2 y2 : K) : addY d x1 y1 x2 y2 = addY d x2 y2 x1 y1 := by
  unfold addY
  congr 1 <;> ring

/-- The polynomial identity behind the x coordinate of associativity. -/
theorem assoc_x_num {d x1 y1 x2 y2 x3 y3 : K} (h1 : Curve d x1 y1) (h2 : Curve d x2 y2) (h3 : Curve d x3 y3) :
    ((x1 * y2 + x2 * y1) * (1 - d * x1 * x2 * y1 * y2) * y3 + x3 * (y1 * y2 + x1 * x2) * (1 + d * x1 * x2 * y1 * y2))
      * ((1 + d * x2 * x3 * y2 * y3) * (1 - d * x2 * x3 * y2 * y3)
        + d * x1 * y1 * (x2 * y3 + x3 * y2) * (y2 * y3 + x2 * x3)) =
    (x1 * (y2 * y3 + x2 * x3) * (1 + d * x2 * x3 * y2 * y3) + (x2 * y3 + x3 * y2) * (1 - d * x2 * x3 * y2 * y3) * y1)
      * ((1 + d * x1 * x2 * y1 * y2) * (1 - d * x1 * x2 * y1 * y2)
        + d * (x1 * y2 + x2 * y1) * (y1 * y2 + x1 * x2) * x3 * y3) := by
  unfold Curve at h1 h2 h3
  linear_combination
    (- y1*x2*y2^4*x3^2*y3*d - y1*x2^2*y2^3*x3*d - y1*x2^2*y2^3*x3^3*d - y1*x2^3*y2^2*y3*d +
      y1*x2^3*y2^2*y3^3*d + y1*x2^3*y2^4*x3^2*y3*d^2 + y1*x2^4*y2*x3*y3^2*d +
      y1*x2^4*y2^3*x3*y3^2*d^2 + x1*x2*y2^4*x3*y3^2*d - x1*x2^2*y2^3*y3*d + x1*x2^2*y2^3*y3^3*d -
      x1*x2^3*y2^2*x3*d - x1*x2^3*y2^2*x3^3*d - x1*x2^3*y2^4*x3*y3^2*d^2 - x1*x2^4*y2*x3^2*y3*d -
      x1*x2^4*y2^3*x3^2*y3*d^2) * h1 +
    (y1*y2*x3 - y1*y2*x3*y3^2 + y1*y2*x3^3 + y1*y2*x3^3*y3^2*d + y1*x2*y3 - y1*x2*y3^3 +
      y1*x2*x3^2*y3 + y1*x2*x3^2*y3^3*d - y1*x2*y2^2*x3^2*y3*d - y1*x2^2*y2*x3*y3^2*d - y1^3*y2*x3
      + y1^3*y2*x3*y3^2 - y1^3*y2*x3^3 - y1^3*y2*x3^3*y3^2*d - y1^3*x2*y3 + y1^3*x2*y3^3 -
      y1^3*x2*x3^2*y3 - y1^3*x2*x3^2*y3^3*d + y1^3*x2*y2^2*x3^2*y3*d + y1^3*x2^2*y2*x3*y3^2*d +
      x1*y2*y3 - x1*y2*y3^3 + x1*y2*x3^2*y3 + x1*y2*x3^2*y3^3*d + x1*x2*x3 - x1*x2*x3*y3^2 +
      x1*x2*x3^3 + x1*x2*x3^3*y3^2*d + x1*x2*y2^2*x3*y3^2*d + x1*x2^2*y2*x3^2*y3*d - x1*y1^2*y2*y3
      + x1*y1^2*y2*y3^3 - x1*y1^2*y2*x3^2*y3 - x1*y1^2*y2*x3^2*y3^3*d - x1*y1^2*x2*x3 +
      x1*y1^2*x2*x3*y3^2 - x1*y1^2*x2*x3^3 - x1*y1^2*x2*x3^3*y3^2*d - x1*y1^2*x2*y2^2*x3*y3^2*d +
      x1*y1^2*x2*y2^2*x3^3*y3^2*d^2 - x1*y1^2*x2^2*y2*x3^2*y3*d - x1*y1^2*x2^2*y2*x3^2*y3^3*d^2 +
      x1^2*y1*y2*x3 - x1^2*y1*y2*x3*y3^2 + x1^2*y1*y2*x3^3 + x1^2*y1*y2*x3^3*y3^2*d + x1^2*y1*x2*y3
      - x1^2*y1*x2*y3^3 + x1^2*y1*x2*x3^2*y3 + x1^2*y1*x2*x3^2*y3^3*d - x1^2*y1*x2*y2^2*x3^2*y3*d -
      x1^2*y1*x2*y2^2*x3^2*y3^3*d^2 - x1^2*y1*x2^2*y2*x3*y3^2*d + x1^2*y1*x2^2*y2*x3^3*y3^2*d^2 +
      x1^3*y2*y3 - x1^3*y2*y3^3 + x1^3*y2*x3^2*y3 + x1^3*y2*x3^2*y3^3*d + x1^3*x2*x3 -
      x1^3*x2*x3*y3^2 + x1^3*x2*x3^3 + x1^3*x2*x3^3*y3^2*d + x1^3*x2*y2^2*x3*y3^2*d +
      x1^3*x2^2*y2*x3^2*y3*d) * h2 +
    (- y1*y2*x3 + y1*y2^3*x3 - y1*x2*y3 + y1*x2*y2^2*y3 - y1*x2^2*y2*x3 - y1*x2^3*y3 + y1^3*y2*x3
      - y1^3*y2^3*x3 + y1^3*x2*y3 - y1^3*x2*y2^2*y3 + y1^3*x2^2*y2*x3 + y1^3*x2^3*y3 - x1*y2*y3 +
      x1*y2^3*y3 - x1*x2*x3 + x1*x2*y2^2*x3 - x1*x2^2*y2*y3 - x1*x2^3*x3 + x1*y1^2*y2*y3 -
      x1*y1^2*y2^3*y3 + x1*y1^2*x2*x3 - x1*y1^2*x2*y2^2*x3 - x1*y1^2*x2*y2^2*x3*d +
      x1*y1^2*x2^2*y2*y3 + x1*y1^2*x2^2*y2*y3*d + x1*y1^2*x2^3*x3 - x1^2*y1*y2*x3 + x1^2*y1*y2^3*x3
      - x1^2*y1*x2*y3 + x1^2*y1*x2*y2^2*y3 + x1^2*y1*x2*y2^2*y3*d - x1^2*y1*x2^2*y2*x3 -
      x1^2*y1*x2^2*y2*x3*d - x1^2*y1*x2^3*y3 - x1^3*y2*y3 + x1^3*y2^3*y3 - x1^3*x2*x3 +
      x1^3*x2*y2^2*x3 - x1^3*x2^2*y2*y3 - x1^3*x2^3*x3) * h3

/-- The polynomial identity behind the y coordinate of associativity. -/
theorem assoc_y_num {d x1 y1 x2 y2 x3 y3 : K} (h1 : Curve d x1 y1) (h2 : Curve d x2 y2) (h3 : Curve d x3 y3) :
    ((y1 * y2 + x1 * x2) * (1 + d * x1 * x2 * y1 * y2) * y3 + (x1 * y2 + x2 * y1) * (1 - d * x1 * x2 * y1 * y2) * x3)
      * ((1 + d * x2 * x3 * y2 * y3) * (1 - d * x2 * x3 * y2 * y3)
        - d * x1 * y1 * (x2 * y3 + x3 * y2) * (y2 * y3 + x2 * x3)) =
    (y1 * (y2 * y3 + x2 * x3) * (1 + d * x2 * x3 * y2 * y3) + x1 * (x2 * y3 + x3 * y2) * (1 - d * x2 * x3 * y2 * y3))
      * ((1 + d * x1 * x2 * y1 * y2) * (1 - d * x1 * x2 * y1 * y2)
        - d * (x1 * y2 + x2 * y1) * (y1 * y2 + x1 * x2) * x3 * y3) := by
  unfold Curve at h1 h2 h3
  linear_combination
    (y1*x2*y2^4*x3*y3^2*d - y1*x2^2*y2^3*y3*d + y1*x2^2*y2^3*y3^3*d - y1*x2^3*y2^2*x3*d -
      y1*x2^3*y2^2*x3^3*d - y1*x2^3*y2^4*x3*y3^2*d^2 - y1*x2^4*y2*x3^2*y3*d -
      y1*x2^4*y2^3*x3^2*y3*d^2 - x1*x2*y2^4*x3^2*y3*d - x1*x2^2*y2^3*x3*d - x1*x2^2*y2^3*x3^3*d -
      x1*x2^3*y2^2*y3*d + x1*x2^3*y2^2*y3^3*d + x1*x2^3*y2^4*x3^2*y3*d^2 + x1*x2^4*y2*x3*y3^2*d +
      x1*x2^4*y2^3*x3*y3^2*d^2) * h1 +
    (y1*y2*y3 - y1*y2*y3^3 + y1*y2*x3^2*y3 + y1*y2*x3^2*y3^3*d + y1*x2*x3 - y1*x2*x3*y3^2 +
      y1*x2*x3^3 + y1*x2*x3^3*y3^2*d + y1*x2*y2^2*x3*y3^2*d + y1*x2^2*y2*x3^2*y3*d - y1^3*y2*y3 +
      y1^3*y2*y3^3 - y1^3*y2*x3^2*y3 - y1^3*y2*x3^2*y3^3*d - y1^3*x2*x3 + y1^3*x2*x3*y3^2 -
      y1^3*x2*x3^3 - y1^3*x2*x3^3*y3^2*d - y1^3*x2*y2^2*x3*y3^2*d - y1^3*x2^2*y2*x3^2*y3*d +
      x1*y2*x3 - x1*y2*x3*y3^2 + x1*y2*x3^3 + x1*y2*x3^3*y3^2*d + x1*x2*y3 - x1*x2*y3^3 +
      x1*x2*x3^2*y3 + x1*x2*x3^2*y3^3*d - x1*x2*y2^2*x3^2*y3*d - x1*x2^2*y2*x3*y3^2*d -
      x1*y1^2*y2*x3 + x1*y1^2*y2*x3*y3^2 - x1*y1^2*y2*x3^3 - x1*y1^2*y2*x3^3*y3^2*d - x1*y1^2*x2*y3
      + x1*y1^2*x2*y3^3 - x1*y1^2*x2*x3^2*y3 - x1*y1^2*x2*x3^2*y3^3*d + x1*y1^2*x2*y2^2*x3^2*y3*d +
      x1*y1^2*x2*y2^2*x3^2*y3^3*d^2 + x1*y1^2*x2^2*y2*x3*y3^2*d - x1*y1^2*x2^2*y2*x3^3*y3^2*d^2 +
      x1^2*y1*y2*y3 - x1^2*y1*y2*y3^3 + x1^2*y1*y2*x3^2*y3 + x1^2*y1*y2*x3^2*y3^3*d + x1^2*y1*x2*x3
      - x1^2*y1*x2*x3*y3^2 + x1^2*y1*x2*x3^3 + x1^2*y1*x2*x3^3*y3^2*d + x1^2*y1*x2*y2^2*x3*y3^2*d -
      x1^2*y1*x2*y2^2*x3^3*y3^2*d^2 + x1^2*y1*x2^2*y2*x3^2*y3*d + x1^2*y1*x2^2*y2*x3^2*y3^3*d^2 +
      x1^3*y2*x3 - x1^3*y2*x3*y3^2 + x1^3*y2*x3^3 + x1^3*y2*x3^3*y3^2*d + x1^3*x2*y3 - x1^3*x2*y3^3
      + x1^3*x2*x3^2*y3 + x1^3*x2*x3^2*y3^3*d - x1^3*x2*y2^2*x3^2*y3*d - x1^3*x2^2*y2*x3*y3^2*d) * h2 +
    (- y1*y2*y3 + y1*y2^3*y3 - y1*x2*x3 + y1*x2*y2^2*x3 - y1*x2^2*y2*y3 - y1*x2^3*x3 + y1^3*y2*y3
      - y1^3*y2^3*y3 + y1^3*x2*x3 - y1^3*x2*y2^2*x3 + y1^3*x2^2*y2*y3 + y1^3*x2^3*x3 - x1*y2*x3 +
      x1*y2^3*x3 - x1*x2*y3 + x1*x2*y2^2*y3 - x1*x2^2*y2*x3 - x1*x2^3*y3 + x1*y1^2*y2*x3 -
      x1*y1^2*y2^3*x3 + x1*y1^2*x2*y3 - x1*y1^2*x2*y2^2*y3 - x1*y1^2*x2*y2^2*y3*d +
      x1*y1^2*x2^2*y2*x3 + x1*y1^2*x2^2*y2*x3*d + x1*y1^2*x2^3*y3 - x1^2*y1*y2*y3 + x1^2*y1*y2^3*y3
      - x1^2*y1*x2*x3 + x1^2*y1*x2*y2^2*x3 + x1^2*y1*x2*y2^2*x3*d - x1^2*y1*x2^2*y2*y3 -
      x1^2*y1*x2^2*y2*y3*d - x1^2*y1*x2^3*x3 - x1^3*y2*x3 + x1^3*y2^3*x3 - x1^3*x2*y3 +
      x1^3*x2*y2^2*y3 - x1^3*x2^2*y2*x3 - x1^3*x2^3*y3) * h3

/-- A sum `(a/p, b/q) + (x, y)` with its inner denominators cleared. -/
theorem addX_frac {d a p b q x y : K} (hp : p ≠ 0) (hq : q ≠ 0) :
    addX d (a / p) (b / q) x y = (a * q * y + x * b * p) / (p * q + d * a * b * x * y) := by
  unfold addX
  have e : 1 + d * (a / p) * x * (b / q) * y = (p * q + d * a * b * x * y) / (p * q) := by field_simp
  have n : a / p * y + x * (b / q) = (a * q * y + x * b * p) / (p * q) := by field_simp
  rw [e, n, div_div_div_cancel_right₀ (mul_ne_zero hp hq)]

/-- The same for the y coordinate. -/
theorem addY_frac {d a p b q x y : K} (hp : p ≠ 0) (hq : q ≠ 0) :
    addY d (a / p) (b / q) x y = (b * p * y + a * q * x) / (p * q - d * a * b * x * y) := by
  unfold addY
  have e : 1 - d * (a / p) * x * (b / q) * y = (p * q - d * a * b * x * y) / (p * q) := by field_simp
  have n : b / q * y + a / p * x = (b * p * y + a * q * x) / (p * q) := by field_simp
  rw [e, n, div_div_div_cancel_right₀ (mul_ne_zero hp hq)]

/-- The denominators `addX_frac` and `addY_frac` are left with are not 0, for a sum on the curve. -/
theorem frac_ne_zero {d a p b q x y : K} (hc : Complete d) (hp : p ≠ 0) (hq : q ≠ 0) (h : Curve d (a / p) (b / q))
    (h' : Curve d x y) : p * q + d * a * b * x * y ≠ 0 ∧ p * q - d * a * b * x * y ≠ 0 := by
  obtain ⟨h1, h2⟩ := hc _ _ _ _ h h'
  have pq := mul_ne_zero hp hq
  constructor
  · intro e
    apply h1
    have : (1 + d * (a / p) * x * (b / q) * y) * (p * q) = p * q + d * a * b * x * y := by field_simp
    exact (mul_eq_zero.1 (this.trans e)).resolve_right pq
  · intro e
    apply h2
    have : (1 - d * (a / p) * x * (b / q) * y) * (p * q) = p * q - d * a * b * x * y := by field_simp
    exact (mul_eq_zero.1 (this.trans e)).resolve_right pq

/-- Associativity, x coordinate. -/
theorem addX_assoc {d x1 y1 x2 y2 x3 y3 : K} (hc : Complete d) (h1 : Curve d x1 y1) (h2 : Curve d x2 y2)
    (h3 : Curve d x3 y3) :
    addX d (addX d x1 y1 x2 y2) (addY d x1 y1 x2 y2) x3 y3 =
      addX d x1 y1 (addX d x2 y2 x3 y3) (addY d x2 y2 x3 y3) := by
  obtain ⟨p12, m12⟩ := hc _ _ _ _ h1 h2
  obtain ⟨p23, m23⟩ := hc _ _ _ _ h2 h3
  have L := (frac_ne_zero hc p12 m12 (curve_add hc h1 h2) h3).1
  have R := (frac_ne_zero hc p23 m23 (curve_add hc h2 h3) h1).1
  rw [addX_comm d x1 y1 (addX d x2 y2 x3 y3)]
  have l := addX_frac (d := d) (a := x1 * y2 + x2 * y1) (b := y1 * y2 + x1 * x2) (x := x3) (y := y3) p12 m12
  have r := addX_frac (d := d) (a := x2 * y3 + x3 * y2) (b := y2 * y3 + x2 * x3) (x := x1) (y := y1) p23 m23
  refine l.trans (Eq.trans ?_ r.symm)
  rw [div_eq_div_iff L R]
  linear_combination assoc_x_num h1 h2 h3

/-- Associativity, y coordinate. -/
theorem addY_assoc {d x1 y1 x2 y2 x3 y3 : K} (hc : Complete d) (h1 : Curve d x1 y1) (h2 : Curve d x2 y2)
    (h3 : Curve d x3 y3) :
    addY d (addX d x1 y1 x2 y2) (addY d x1 y1 x2 y2) x3 y3 =
      addY d x1 y1 (addX d x2 y2 x3 y3) (addY d x2 y2 x3 y3) := by
  obtain ⟨p12, m12⟩ := hc _ _ _ _ h1 h2
  obtain ⟨p23, m23⟩ := hc _ _ _ _ h2 h3
  have L := (frac_ne_zero hc p12 m12 (curve_add hc h1 h2) h3).2
  have R := (frac_ne_zero hc p23 m23 (curve_add hc h2 h3) h1).2
  rw [addY_comm d x1 y1 (addX d x2 y2 x3 y3)]
  have l := addY_frac (d := d) (a := x1 * y2 + x2 * y1) (b := y1 * y2 + x1 * x2) (x := x3) (y := y3) p12 m12
  have r := addY_frac (d := d) (a := x2 * y3 + x3 * y2) (b := y2 * y3 + x2 * x3) (x := x1) (y := y1) p23 m23
  refine l.trans (Eq.trans ?_ r.symm)
  rw [div_eq_div_iff L R]
  linear_combination assoc_y_num h1 h2 h3

end Sys2Proof.Laws.Edwards
end

