-- ==== Sys2Proof/Laws/Prime.lean ====
section
/-! SUPPORT. p = 2^255 - 19 is prime (spec/00_scope.md R7), by a Pratt certificate: Lucas's test on p and on
the large prime factors of p - 1, each with the full factorisation of its predecessor. -/

set_option Elab.async false

namespace Sys2Proof.Laws

/-- `a ^ n % m` by binary exponentiation, for an exponent of at most `bits` bits. -/
def powMod (a m : ℕ) : (bits n : ℕ) → ℕ
  | 0, _ => 1 % m
  | bits + 1, n =>
    let h := powMod a m bits (n / 2)
    if n % 2 = 1 then h * h % m * a % m else h * h % m

theorem powMod_eq (a m : ℕ) : ∀ bits n, n < 2 ^ bits → powMod a m bits n = a ^ n % m
  | 0, n, h => by
    have : n = 0 := by simpa using h
    simp [powMod, this]
  | bits + 1, n, h => by
    have ih := powMod_eq a m bits (n / 2) (by rw [pow_succ] at h; omega)
    have hn : a ^ n = a ^ (n / 2) * a ^ (n / 2) * a ^ (n % 2) := by
      rw [← pow_add, ← pow_add]; congr 1; omega
    have h2 : n % 2 = 0 ∨ n % 2 = 1 := Nat.mod_two_eq_zero_or_one n
    rcases h2 with h2 | h2 <;> simp [powMod, ih, h2, hn, Nat.mul_mod]

/-- The certificate of one prime `n`: a primitive root `a`, and the prime factors `l` of `n - 1`. -/
def rootCheck (n a : ℕ) (l : List ℕ) : Bool :=
  decide (l.prod = n - 1) && decide (1 < n) && decide (n < 2 ^ 256) && decide (powMod a n 256 (n - 1) = 1) &&
    l.all fun q => decide (powMod a n 256 ((n - 1) / q) ≠ 1)

/-- Lucas's test on a certificate. -/
theorem prime_of_rootCheck (n a : ℕ) (l : List ℕ) (hl : ∀ q ∈ l, q.Prime) (h : rootCheck n a l = true) :
    n.Prime := by
  simp only [rootCheck, Bool.and_eq_true, decide_eq_true_eq, List.all_eq_true] at h
  obtain ⟨⟨⟨⟨hprod, hn⟩, hb⟩, h1⟩, h2⟩ := h
  have key : ∀ k : ℕ, k ≤ n → (((a : ZMod n) ^ k = 1) ↔ powMod a n 256 k = 1) := by
    intro k hk
    rw [powMod_eq a n 256 k (lt_of_le_of_lt hk hb)]
    have h : ((a : ZMod n) ^ k = 1) ↔ ((a ^ k : ℕ) : ZMod n) = ((1 : ℕ) : ZMod n) := by push_cast; rfl
    rw [h, ZMod.natCast_eq_natCast_iff, Nat.ModEq, Nat.mod_eq_of_lt hn]
  refine lucas_primality n (a : ZMod n) ((key _ (Nat.sub_le _ _)).2 h1) fun q hq hd => ?_
  rw [← hprod] at hd
  obtain ⟨r, hr, hqr⟩ := (Prime.dvd_prod_iff hq.prime).1 hd
  have : q = r := (Nat.prime_dvd_prime_iff_eq hq (hl r hr)).1 hqr
  subst this
  exact fun h => h2 q hr ((key _ ((Nat.div_le_self _ _).trans (Nat.sub_le _ _))).1 h)

theorem prime_2773320623 : Nat.Prime 2773320623 :=
  prime_of_rootCheck 2773320623 5
    [2, 2437, 569003]
    (by
      simp only [List.forall_mem_cons, List.not_mem_nil, false_imp_iff, implies_true, and_true]
      exact ⟨by norm_num, by norm_num, by norm_num⟩)
    (by decide +kernel)

theorem prime_72106336199 : Nat.Prime 72106336199 :=
  prime_of_rootCheck 72106336199 7
    [2, 13, 2773320623]
    (by
      simp only [List.forall_mem_cons, List.not_mem_nil, false_imp_iff, implies_true, and_true]
      exact ⟨by norm_num, by norm_num, prime_2773320623⟩)
    (by decide +kernel)

theorem prime_1919519569386763 : Nat.Prime 1919519569386763 :=
  prime_of_rootCheck 1919519569386763 2
    [2, 3, 7, 19, 47, 47, 127, 8574133]
    (by
      simp only [List.forall_mem_cons, List.not_mem_nil, false_imp_iff, implies_true, and_true]
      exact ⟨by norm_num, by norm_num, by norm_num, by norm_num, by norm_num, by norm_num, by norm_num, by norm_num⟩)
    (by decide +kernel)

theorem prime_31757755568855353 : Nat.Prime 31757755568855353 :=
  prime_of_rootCheck 31757755568855353 10
    [2, 2, 2, 3, 31, 107, 223, 4153, 430751]
    (by
      simp only [List.forall_mem_cons, List.not_mem_nil, false_imp_iff, implies_true, and_true]
      exact ⟨by norm_num, by norm_num, by norm_num, by norm_num, by norm_num, by norm_num, by norm_num, by norm_num, by norm_num⟩)
    (by decide +kernel)

theorem prime_75445702479781427272750846543864801 : Nat.Prime 75445702479781427272750846543864801 :=
  prime_of_rootCheck 75445702479781427272750846543864801 7
    [2, 2, 2, 2, 2, 3, 3, 5, 5, 75707, 72106336199, 1919519569386763]
    (by
      simp only [List.forall_mem_cons, List.not_mem_nil, false_imp_iff, implies_true, and_true]
      exact ⟨by norm_num, by norm_num, by norm_num, by norm_num, by norm_num, by norm_num, by norm_num, by norm_num, by norm_num, by norm_num, prime_72106336199, prime_1919519569386763⟩)
    (by decide +kernel)

theorem prime_74058212732561358302231226437062788676166966415465897661863160754340907 : Nat.Prime 74058212732561358302231226437062788676166966415465897661863160754340907 :=
  prime_of_rootCheck 74058212732561358302231226437062788676166966415465897661863160754340907 2
    [2, 3, 353, 57467, 132049, 1923133, 31757755568855353, 75445702479781427272750846543864801]
    (by
      simp only [List.forall_mem_cons, List.not_mem_nil, false_imp_iff, implies_true, and_true]
      exact ⟨by norm_num, by norm_num, by norm_num, by norm_num, by norm_num, by norm_num, prime_31757755568855353, prime_75445702479781427272750846543864801⟩)
    (by decide +kernel)

theorem prime_field : Nat.Prime fieldPrime :=
  prime_of_rootCheck fieldPrime 2
    [2, 2, 3, 65147, 74058212732561358302231226437062788676166966415465897661863160754340907]
    (by
      simp only [List.forall_mem_cons, List.not_mem_nil, false_imp_iff, implies_true, and_true]
      exact ⟨by norm_num, by norm_num, by norm_num, by norm_num, prime_74058212732561358302231226437062788676166966415465897661863160754340907⟩)
    (by decide +kernel)

end Sys2Proof.Laws
end

