-- ==== Sys2Proof/Laws/Field.lean ====
section
/-! SUPPORT. The field laws of `Fp` (spec/40_field.md R110, R117 to R119): the ring homomorphism to `ZMod p`, powers, the
inverse, and the constants of spec/00_scope.md R8, R13. -/

set_option Elab.async false

namespace Sys2Proof.Laws

open Sys2Proof.Machine

/-- What a proof that works in the field `ZMod p` starts from: `have := fact_prime`. -/
theorem fact_prime : Fact (Nat.Prime fieldPrime) := ⟨prime_field⟩

/-! ## The homomorphism to `ZMod p` -/

/-- A value of `Fp` as an element of the field `ZMod p`. -/
def toZ (a : Fp) : ZMod fieldPrime := (a.val : ZMod fieldPrime)

theorem toZ_injective : Function.Injective toZ := by
  intro a b h
  have h' := (ZMod.natCast_eq_natCast_iff' a.val b.val fieldPrime).1 h
  rw [Nat.mod_eq_of_lt a.isLt, Nat.mod_eq_of_lt b.isLt] at h'
  exact Fin.ext h'

theorem toZ_inj {a b : Fp} : toZ a = toZ b ↔ a = b := toZ_injective.eq_iff

@[simp] theorem toZ_ofNat' (n : ℕ) : toZ (Fp.ofNat n) = n := by simp [toZ, Fp.ofNat]

@[simp] theorem toZ_add (a b : Fp) : toZ (a + b) = toZ a + toZ b := by simp [toZ, Fin.val_add]

@[simp] theorem toZ_mul (a b : Fp) : toZ (a * b) = toZ a * toZ b := by simp [toZ, Fin.val_mul]

@[simp] theorem toZ_zero : toZ 0 = 0 := by simp [toZ]

@[simp] theorem toZ_one : toZ 1 = 1 := by simp [toZ]

@[simp] theorem toZ_two : toZ 2 = 2 := by simp [toZ]

@[simp] theorem toZ_sub (a b : Fp) : toZ (a - b) = toZ a - toZ b := by
  have h : a - b + b = a := by
    open Fin.CommRing in ring
  rw [eq_sub_iff_add_eq, ← toZ_add, h]

@[simp] theorem toZ_neg (a : Fp) : toZ (-a) = -toZ a := by
  have h : -a + a = 0 := by
    open Fin.CommRing in ring
  rw [eq_neg_iff_add_eq_zero, ← toZ_add, h, toZ_zero]

theorem toZ_eq_zero {a : Fp} : toZ a = 0 ↔ a = 0 := by rw [← toZ_zero, toZ_inj]

/-! ## Powers and inverses -/

theorem toZ_powBits (a : Fp) : ∀ bits n, n < 2 ^ bits → toZ (Fp.powBits a bits n) = toZ a ^ n
  | 0, n, h => by
    have : n = 0 := by simpa using h
    simp [Fp.powBits, this]
  | bits + 1, n, h => by
    have ih := toZ_powBits a bits (n / 2) (by rw [pow_succ] at h; omega)
    have hn : toZ a ^ n = toZ a ^ (n / 2) * toZ a ^ (n / 2) * toZ a ^ (n % 2) := by
      rw [← pow_add, ← pow_add]; congr 1; omega
    rcases Nat.mod_two_eq_zero_or_one n with h2 | h2 <;> simp [Fp.powBits, ih, h2, hn]

/-- `Fp.pow` is the power of the field, for every exponent below 2^255. -/
theorem toZ_pow (a : Fp) (n : ℕ) (h : n < 2 ^ 255) : toZ (a.pow n) = toZ a ^ n := toZ_powBits a 255 n h

/-- `inv(a) = a^(p-2)` is the inverse of the field, and 0 at 0 (R110). -/
@[simp] theorem toZ_inv (a : Fp) : toZ a.inv = (toZ a)⁻¹ := by
  have := fact_prime
  rw [Fp.inv, toZ_pow _ _ (by decide)]
  by_cases h : toZ a = 0
  · rw [h, inv_zero, zero_pow (by decide)]
  · refine eq_inv_of_mul_eq_one_left ?_
    rw [← pow_succ]
    have := ZMod.pow_card_sub_one_eq_one h
    rwa [show fieldPrime - 1 = fieldPrime - 2 + 1 by decide] at this

/-- A non-zero value times its inverse is 1 (R110, R117 (e)). -/
theorem mul_inv_self {a : Fp} (h : a ≠ 0) : a * a.inv = 1 := by
  have := fact_prime
  apply toZ_injective
  have : toZ a ≠ 0 := fun e => h (toZ_eq_zero.1 e)
  simp [this]

/-- There are no zero divisors (R117 (d)). -/
theorem mul_eq_zero_iff {a b : Fp} : a * b = 0 ↔ a = 0 ∨ b = 0 := by
  have := fact_prime
  rw [← toZ_eq_zero, toZ_mul, mul_eq_zero, toZ_eq_zero, toZ_eq_zero]

@[simp] theorem toZ_sqN (a : Fp) : ∀ n, toZ (Fp.sqN a n) = toZ a ^ 2 ^ n
  | 0 => by simp [Fp.sqN]
  | n + 1 => by simp only [Fp.sqN, toZ_mul, toZ_sqN a n]; rw [← pow_add]; congr 1; rw [pow_succ]; ring

/-! ## The constants (R8, R13) -/

/-- d * 121666 = -121665 (R8). -/
theorem curveD_spec : curveD * 121666 + 121665 = 0 := by decide +kernel

/-- 2d is 2 times d (R8). -/
theorem curve2D_eq : curve2D = 2 * curveD := by decide +kernel

/-- I * I = -1 (R13). -/
theorem sqrtMinusOne_sq : sqrtMinusOne * sqrtMinusOne = -1 := by decide +kernel

/-- d is not a square: d^((p-1)/2) = -1. -/
theorem curveD_pow_half : curveD.pow ((fieldPrime - 1) / 2) = -1 := by decide +kernel

theorem toZ_curveD_not_square : ¬ IsSquare (toZ curveD) := by
  have := fact_prime
  rintro ⟨r, hr⟩
  have h := congrArg toZ curveD_pow_half
  rw [toZ_pow _ _ (by decide), toZ_neg, toZ_one, hr, ← pow_two, ← pow_mul] at h
  have e : 2 * ((fieldPrime - 1) / 2) = fieldPrime - 1 := by decide
  have two : (2 : ZMod fieldPrime) ≠ 0 := by rw [← toZ_two, Ne, toZ_eq_zero]; decide
  rw [e] at h
  by_cases r0 : r = 0
  · rw [r0, zero_pow (by decide)] at h
    exact one_ne_zero (neg_eq_zero.1 h.symm)
  · rw [ZMod.pow_card_sub_one_eq_one r0] at h
    apply two
    linear_combination h

end Sys2Proof.Laws
end

