-- ==== Sys2Proof/Laws/CurveGroup.lean ====
section
/-! SUPPORT. The affine group law of the model (`Affine.add`, `Affine.neg`, `Affine.smul`; spec/00_scope.md R11) on
the points of the curve: complete, closed, commutative, associative, with identity and inverses, and `[n]P` additive
in n. -/

set_option Elab.async false

namespace Sys2Proof.Laws

open Sys2Proof.Machine

theorem affine_ext {a b : Affine} (hx : toZ a.x = toZ b.x) (hy : toZ a.y = toZ b.y) : a = b := by
  cases a; cases b
  simp only [Affine.mk.injEq]
  exact ⟨toZ_injective hx, toZ_injective hy⟩

theorem two_ne_zero_field : (2 : ZMod fieldPrime) ≠ 0 := by
  rw [← toZ_two, Ne, toZ_eq_zero]; decide

/-! ## To the field `ZMod p`: cite these after `have := fact_prime` -/

section

variable [Fact (Nat.Prime fieldPrime)]

theorem toZ_add_x (a b : Affine) :
    toZ (a.add b).x = Edwards.addX (toZ curveD) (toZ a.x) (toZ a.y) (toZ b.x) (toZ b.y) := by
  simp [Affine.add, Edwards.addX, div_eq_mul_inv]

theorem toZ_add_y (a b : Affine) :
    toZ (a.add b).y = Edwards.addY (toZ curveD) (toZ a.x) (toZ a.y) (toZ b.x) (toZ b.y) := by
  simp [Affine.add, Edwards.addY, div_eq_mul_inv]

theorem onCurve_iff (a : Affine) : a.OnCurve ↔ Edwards.Curve (toZ curveD) (toZ a.x) (toZ a.y) := by
  rw [Affine.OnCurve, ← toZ_eq_zero]
  simp [Edwards.Curve]

/-- The addition law of this curve is complete (R144). -/
theorem curve_complete : Edwards.Complete (toZ curveD) := by
  refine Edwards.complete_of_not_square (i := toZ sqrtMinusOne) two_ne_zero_field ?_ toZ_curveD_not_square
  rw [← toZ_mul, sqrtMinusOne_sq, toZ_neg, toZ_one]

end

/-! ## The law on the curve -/

theorem onCurve_identity : Affine.identity.OnCurve := by decide

theorem onCurve_base : Affine.base.OnCurve := by decide +kernel

theorem onCurve_neg {a : Affine} (h : a.OnCurve) : a.neg.OnCurve := by
  have := fact_prime
  rw [onCurve_iff] at h ⊢
  unfold Edwards.Curve at h ⊢
  simp only [Affine.neg, toZ_neg]
  linear_combination h

theorem onCurve_add {a b : Affine} (ha : a.OnCurve) (hb : b.OnCurve) : (a.add b).OnCurve := by
  have := fact_prime
  rw [onCurve_iff] at ha hb ⊢
  rw [toZ_add_x, toZ_add_y]
  exact Edwards.curve_add curve_complete ha hb

theorem add_comm_affine (a b : Affine) : a.add b = b.add a := by
  have := fact_prime
  apply affine_ext
  · rw [toZ_add_x, toZ_add_x, Edwards.addX_comm]
  · rw [toZ_add_y, toZ_add_y, Edwards.addY_comm]

theorem add_assoc_affine {a b c : Affine} (ha : a.OnCurve) (hb : b.OnCurve) (hc : c.OnCurve) :
    (a.add b).add c = a.add (b.add c) := by
  have := fact_prime
  rw [onCurve_iff] at ha hb hc
  apply affine_ext
  · simp only [toZ_add_x, toZ_add_y]
    exact Edwards.addX_assoc curve_complete ha hb hc
  · simp only [toZ_add_x, toZ_add_y]
    exact Edwards.addY_assoc curve_complete ha hb hc

theorem identity_add (a : Affine) : Affine.identity.add a = a := by
  have := fact_prime
  apply affine_ext
  · simp [toZ_add_x, Edwards.addX, Affine.identity]
  · simp [toZ_add_y, Edwards.addY, Affine.identity]

theorem add_identity (a : Affine) : a.add Affine.identity = a := by
  rw [add_comm_affine, identity_add]

theorem add_neg {a : Affine} (h : a.OnCurve) : a.add a.neg = Affine.identity := by
  have := fact_prime
  rw [onCurve_iff] at h
  obtain ⟨hp, hm⟩ := curve_complete _ _ _ _ h h
  unfold Edwards.Curve at h
  apply affine_ext
  · rw [toZ_add_x, Edwards.addX]
    simp only [Affine.neg, Affine.identity, toZ_neg, toZ_zero]
    rw [show toZ a.x * toZ a.y + -toZ a.x * toZ a.y = 0 by ring, zero_div]
  · rw [toZ_add_y, Edwards.addY]
    simp only [Affine.neg, Affine.identity, toZ_neg, toZ_one]
    rw [div_eq_one_iff_eq]
    · linear_combination h
    · intro e; apply hp; linear_combination e

/-! ## Multiples -/

theorem onCurve_smul {a : Affine} (h : a.OnCurve) : ∀ n, (Affine.smul n a).OnCurve
  | 0 => onCurve_identity
  | n + 1 => onCurve_add (onCurve_smul h n) h

theorem smul_one (a : Affine) : Affine.smul 1 a = a := identity_add a

theorem smul_succ (n : ℕ) (a : Affine) : Affine.smul (n + 1) a = (Affine.smul n a).add a := rfl

theorem smul_add {a : Affine} (h : a.OnCurve) (m : ℕ) :
    ∀ n, Affine.smul (m + n) a = (Affine.smul m a).add (Affine.smul n a)
  | 0 => (add_identity _).symm
  | n + 1 => by
    rw [← Nat.add_assoc, smul_succ, smul_add h m n, smul_succ,
      add_assoc_affine (onCurve_smul h m) (onCurve_smul h n) h]

theorem smul_two_mul {a : Affine} (h : a.OnCurve) (n : ℕ) :
    Affine.smul (2 * n) a = (Affine.smul n a).add (Affine.smul n a) := by
  rw [Nat.two_mul, smul_add h]

theorem smul_mul {a : Affine} (h : a.OnCurve) (m : ℕ) :
    ∀ n, Affine.smul (n * m) a = Affine.smul n (Affine.smul m a)
  | 0 => by rw [Nat.zero_mul]; rfl
  | n + 1 => by rw [Nat.succ_mul, smul_add h, smul_mul h m n, smul_succ]

end Sys2Proof.Laws
end

