-- ==== Sys2Proof/Laws/Datapath.lean ====
section
/-! SUPPORT. What each group datapath does to a representation that satisfies spec/10_state.md R33: one lemma a datapath,
that its result satisfies R33 and which affine point it denotes (the substitution of spec/41_group.md R144). -/

set_option Elab.async false

namespace Sys2Proof.Laws

open Sys2Proof.Machine

theorem toZ_ne_zero {a : Fp} : toZ a ≠ 0 ↔ a ≠ 0 := toZ_eq_zero.not

section

variable [Fact (Nat.Prime fieldPrime)]

/-! ## A valid representation in terms of its affine point -/

theorem extended_scaled {e : Extended} (h : e.Valid) : toZ e.z ≠ 0 ∧
    toZ e.x = toZ e.aff.x * toZ e.z ∧ toZ e.y = toZ e.aff.y * toZ e.z ∧
    toZ e.t = toZ e.aff.x * toZ e.aff.y * toZ e.z := by
  obtain ⟨hz, -, ht⟩ := h
  have hz' := toZ_ne_zero.2 hz
  have hx : toZ e.x = toZ e.aff.x * toZ e.z := by simp [Extended.aff, hz']
  have hy : toZ e.y = toZ e.aff.y * toZ e.z := by simp [Extended.aff, hz']
  refine ⟨hz', hx, hy, mul_left_cancel₀ hz' ?_⟩
  rw [← toZ_mul, ← ht, toZ_mul, hx, hy]; ring

theorem projective_scaled {q : Projective} (h : q.Valid) : toZ q.z ≠ 0 ∧
    toZ q.x = toZ q.aff.x * toZ q.z ∧ toZ q.y = toZ q.aff.y * toZ q.z := by
  have hz' := toZ_ne_zero.2 h.1
  exact ⟨hz', by simp [Projective.aff, hz'], by simp [Projective.aff, hz']⟩

theorem completed_scaled {c : Completed} (h : c.Valid) : toZ c.z ≠ 0 ∧ toZ c.t ≠ 0 ∧
    toZ c.x = toZ c.aff.x * toZ c.z ∧ toZ c.y = toZ c.aff.y * toZ c.t := by
  have hz' := toZ_ne_zero.2 h.1
  have ht' := toZ_ne_zero.2 h.2.1
  exact ⟨hz', ht', by simp [Completed.aff, hz'], by simp [Completed.aff, ht']⟩

theorem cached_scaled {k : Cached} (h : k.Valid) : toZ k.z ≠ 0 ∧
    toZ k.ypx = (toZ k.aff.y + toZ k.aff.x) * toZ k.z ∧ toZ k.ymx = (toZ k.aff.y - toZ k.aff.x) * toZ k.z ∧
    toZ k.t2d = 2 * toZ curveD * toZ k.aff.x * toZ k.aff.y * toZ k.z := by
  obtain ⟨hz, -, ht⟩ := h
  have h2 := two_ne_zero_field
  have hz' := toZ_ne_zero.2 hz
  have hp : toZ k.ypx = (toZ k.aff.y + toZ k.aff.x) * toZ k.z := by
    simp only [Cached.aff, toZ_mul, toZ_add, toZ_sub, toZ_inv, toZ_two]; field_simp; ring
  have hm : toZ k.ymx = (toZ k.aff.y - toZ k.aff.x) * toZ k.z := by
    simp only [Cached.aff, toZ_mul, toZ_add, toZ_sub, toZ_inv, toZ_two]; field_simp; ring
  refine ⟨hz', hp, hm, mul_left_cancel₀ (mul_ne_zero h2 hz') ?_⟩
  have h' := congrArg toZ ht
  simp only [toZ_mul, toZ_sub, toZ_two] at h'
  rw [h', hp, hm]; ring

/-! ## A representation scaled from an affine point on the curve is valid -/

theorem extended_valid {e : Extended} {a : Affine} (ha : a.OnCurve) (hz : toZ e.z ≠ 0)
    (hx : toZ e.x = toZ a.x * toZ e.z) (hy : toZ e.y = toZ a.y * toZ e.z)
    (ht : toZ e.t = toZ a.x * toZ a.y * toZ e.z) : e.Valid ∧ e.aff = a := by
  have h : e.aff = a := by apply affine_ext <;> simp [Extended.aff, hx, hy, hz]
  refine ⟨⟨toZ_ne_zero.1 hz, h ▸ ha, toZ_injective ?_⟩, h⟩
  rw [toZ_mul, toZ_mul, hx, hy, ht]; ring

theorem projective_valid {q : Projective} {a : Affine} (ha : a.OnCurve) (hz : toZ q.z ≠ 0)
    (hx : toZ q.x = toZ a.x * toZ q.z) (hy : toZ q.y = toZ a.y * toZ q.z) : q.Valid ∧ q.aff = a := by
  have h : q.aff = a := by apply affine_ext <;> simp [Projective.aff, hx, hy, hz]
  exact ⟨⟨toZ_ne_zero.1 hz, h ▸ ha⟩, h⟩

theorem completed_valid {c : Completed} {a : Affine} (ha : a.OnCurve) (hz : toZ c.z ≠ 0) (ht : toZ c.t ≠ 0)
    (hx : toZ c.x = toZ a.x * toZ c.z) (hy : toZ c.y = toZ a.y * toZ c.t) : c.Valid ∧ c.aff = a := by
  have h : c.aff = a := by apply affine_ext <;> simp [Completed.aff, hx, hy, hz, ht]
  exact ⟨⟨toZ_ne_zero.1 hz, toZ_ne_zero.1 ht, h ▸ ha⟩, h⟩

theorem cached_valid {k : Cached} {a : Affine} (ha : a.OnCurve) (hz : toZ k.z ≠ 0)
    (hp : toZ k.ypx = (toZ a.y + toZ a.x) * toZ k.z) (hm : toZ k.ymx = (toZ a.y - toZ a.x) * toZ k.z)
    (ht : toZ k.t2d = 2 * toZ curveD * toZ a.x * toZ a.y * toZ k.z) : k.Valid ∧ k.aff = a := by
  have h2 := two_ne_zero_field
  have h : k.aff = a := by
    apply affine_ext
    · simp only [Cached.aff, toZ_mul, toZ_sub, toZ_inv, toZ_two, hp, hm]; field_simp; ring
    · simp only [Cached.aff, toZ_mul, toZ_add, toZ_inv, toZ_two, hp, hm]; field_simp; ring
  refine ⟨⟨toZ_ne_zero.1 hz, h ▸ ha, toZ_injective ?_⟩, h⟩
  simp only [toZ_mul, toZ_sub, toZ_two, hp, hm, ht]; ring

end

/-! ## The datapaths -/

/-- The datapath of `PADD` (R135). -/
theorem addCached_spec {e : Extended} {k : Cached} (he : e.Valid) (hk : k.Valid) :
    (e.addCached k).Valid ∧ (e.addCached k).aff = e.aff.add k.aff := by
  have := fact_prime
  have h2 := two_ne_zero_field
  obtain ⟨hz1, hx1, hy1, ht1⟩ := extended_scaled he
  obtain ⟨hz2, hp2, hm2, ht2⟩ := cached_scaled hk
  obtain ⟨hp, hm⟩ := curve_complete _ _ _ _ ((onCurve_iff _).1 he.2.1) ((onCurve_iff _).1 hk.2.1)
  have hzz := mul_ne_zero (mul_ne_zero h2 hz1) hz2
  have hz : toZ (e.addCached k).z = 2 * toZ e.z * toZ k.z *
      (1 + toZ curveD * toZ e.aff.x * toZ k.aff.x * toZ e.aff.y * toZ k.aff.y) := by
    simp only [Extended.addCached, toZ_add, toZ_mul, ht1, ht2]; ring
  have ht : toZ (e.addCached k).t = 2 * toZ e.z * toZ k.z *
      (1 - toZ curveD * toZ e.aff.x * toZ k.aff.x * toZ e.aff.y * toZ k.aff.y) := by
    simp only [Extended.addCached, toZ_add, toZ_sub, toZ_mul, ht1, ht2]; ring
  refine completed_valid (onCurve_add he.2.1 hk.2.1) (hz ▸ mul_ne_zero hzz hp) (ht ▸ mul_ne_zero hzz hm) ?_ ?_
  · rw [toZ_add_x, Edwards.addX, hz]
    simp only [Extended.addCached, toZ_add, toZ_sub, toZ_mul, hx1, hy1, hp2, hm2]
    rw [div_mul_eq_mul_div, eq_div_iff hp]; ring
  · rw [toZ_add_y, Edwards.addY, ht]
    simp only [Extended.addCached, toZ_add, toZ_sub, toZ_mul, hx1, hy1, hp2, hm2]
    rw [div_mul_eq_mul_div, eq_div_iff hm]; ring

/-- The negative of an Extended representation (R134). -/
theorem extended_negate_spec {e : Extended} (he : e.Valid) : e.negate.Valid ∧ e.negate.aff = e.aff.neg := by
  have := fact_prime
  obtain ⟨hz, hx, hy, ht⟩ := extended_scaled he
  refine extended_valid (onCurve_neg he.2.1) hz ?_ ?_ ?_ <;>
    simp only [Extended.negate, Affine.neg, toZ_neg, hx, hy, ht] <;> ring

/-- The negative of a Projective representation (R134). -/
theorem projective_negate_spec {q : Projective} (hq : q.Valid) :
    Projective.Valid ⟨-q.x, q.y, q.z⟩ ∧ Projective.aff ⟨-q.x, q.y, q.z⟩ = q.aff.neg := by
  have := fact_prime
  obtain ⟨hz, hx, hy⟩ := projective_scaled hq
  refine projective_valid (onCurve_neg hq.2) hz ?_ ?_ <;> simp only [Affine.neg, toZ_neg, hx, hy]; ring

/-- The negative of a Completed representation (R134). -/
theorem completed_negate_spec {c : Completed} (hc : c.Valid) :
    Completed.Valid ⟨-c.x, c.y, c.z, c.t⟩ ∧ Completed.aff ⟨-c.x, c.y, c.z, c.t⟩ = c.aff.neg := by
  have := fact_prime
  obtain ⟨hz, ht, hx, hy⟩ := completed_scaled hc
  refine completed_valid (onCurve_neg hc.2.2) hz ht ?_ ?_ <;> simp only [Affine.neg, toZ_neg, hx, hy]; ring

/-- The negative of a Cached representation (R134). -/
theorem cached_negate_spec {k : Cached} (hk : k.Valid) : k.negate.Valid ∧ k.negate.aff = k.aff.neg := by
  have := fact_prime
  obtain ⟨hz, hp, hm, ht⟩ := cached_scaled hk
  refine cached_valid (onCurve_neg hk.2.1) hz ?_ ?_ ?_ <;>
    simp only [Cached.negate, Affine.neg, toZ_neg, hp, hm, ht] <;> ring

/-- `PSUB`'s datapath is `PADD`'s on the negated Cached operand (R136). -/
theorem subCached_eq (e : Extended) (k : Cached) : e.subCached k = e.addCached k.negate := by
  simp only [Extended.subCached, Extended.addCached, Cached.negate, Completed.mk.injEq, true_and]
  constructor <;> apply toZ_injective <;> simp [sub_eq_add_neg]

/-- The datapath of `PSUB` (R136). -/
theorem subCached_spec {e : Extended} {k : Cached} (he : e.Valid) (hk : k.Valid) :
    (e.subCached k).Valid ∧ (e.subCached k).aff = e.aff.add k.aff.neg := by
  rw [subCached_eq, ← (cached_negate_spec hk).2]
  exact addCached_spec he (cached_negate_spec hk).1

/-- The datapath of `PDBL` (R137). -/
theorem double_spec {q : Projective} (hq : q.Valid) : q.double.Valid ∧ q.double.aff = q.aff.add q.aff := by
  have := fact_prime
  obtain ⟨hz1, hx1, hy1⟩ := projective_scaled hq
  have hcur := (onCurve_iff _).1 hq.2
  obtain ⟨hp, hm⟩ := curve_complete _ _ _ _ hcur hcur
  unfold Edwards.Curve at hcur
  have hzz := mul_ne_zero hz1 hz1
  have hz : toZ q.double.z = toZ q.z * toZ q.z *
      (1 + toZ curveD * toZ q.aff.x * toZ q.aff.x * toZ q.aff.y * toZ q.aff.y) := by
    simp only [Projective.double, toZ_sub, toZ_mul, hx1, hy1]
    linear_combination toZ q.z ^ 2 * hcur
  have ht : toZ q.double.t = toZ q.z * toZ q.z *
      (1 - toZ curveD * toZ q.aff.x * toZ q.aff.x * toZ q.aff.y * toZ q.aff.y) := by
    simp only [Projective.double, toZ_sub, toZ_mul, toZ_two, hx1, hy1]
    linear_combination -toZ q.z ^ 2 * hcur
  refine completed_valid (onCurve_add hq.2 hq.2) (hz ▸ mul_ne_zero hzz hp) (ht ▸ mul_ne_zero hzz hm) ?_ ?_
  · rw [toZ_add_x, Edwards.addX, hz]
    simp only [Projective.double, toZ_add, toZ_sub, toZ_mul, hx1, hy1]
    rw [div_mul_eq_mul_div, eq_div_iff hp]; ring
  · rw [toZ_add_y, Edwards.addY, ht]
    simp only [Projective.double, toZ_add, toZ_mul, hx1, hy1]
    rw [div_mul_eq_mul_div, eq_div_iff hm]; ring

/-- Completed to Extended (R138). -/
theorem toExtended_spec {c : Completed} (hc : c.Valid) : c.toExtended.Valid ∧ c.toExtended.aff = c.aff := by
  have := fact_prime
  obtain ⟨hz, ht, hx, hy⟩ := completed_scaled hc
  refine extended_valid hc.2.2 ?_ ?_ ?_ ?_ <;> simp only [Completed.toExtended, toZ_mul]
  · exact mul_ne_zero hz ht
  · rw [hx]; ring
  · rw [hy]; ring
  · rw [hx, hy]; ring

/-- Completed to Projective (R138). -/
theorem completed_toProjective_spec {c : Completed} (hc : c.Valid) :
    c.toProjective.Valid ∧ c.toProjective.aff = c.aff := by
  have := fact_prime
  obtain ⟨hz, ht, hx, hy⟩ := completed_scaled hc
  refine projective_valid hc.2.2 ?_ ?_ ?_ <;> simp only [Completed.toProjective, toZ_mul]
  · exact mul_ne_zero hz ht
  · rw [hx]; ring
  · rw [hy]; ring

/-- Extended to Projective (R138). -/
theorem extended_toProjective_spec {e : Extended} (he : e.Valid) :
    e.toProjective.Valid ∧ e.toProjective.aff = e.aff := ⟨⟨he.1, he.2.1⟩, rfl⟩

/-- Extended to Cached (R138). -/
theorem toCached_spec {e : Extended} (he : e.Valid) : e.toCached.Valid ∧ e.toCached.aff = e.aff := by
  have := fact_prime
  obtain ⟨hz, hx, hy, ht⟩ := extended_scaled he
  refine cached_valid he.2.1 hz ?_ ?_ ?_ <;>
    simp only [Extended.toCached, toZ_add, toZ_sub, toZ_mul, curve2D_eq, toZ_two, hx, hy, ht] <;> ring

/-- The Extended representation with Z = 1 of a point of the curve (R19). -/
theorem ofAffine_spec {a : Affine} (ha : a.OnCurve) :
    (Extended.ofAffine a).Valid ∧ (Extended.ofAffine a).aff = a := by
  have := fact_prime
  refine extended_valid ha ?_ ?_ ?_ ?_ <;> simp [Extended.ofAffine]

/-- The Cached representation with Z = 1 of a point of the curve (R173). -/
theorem cached_ofAffine_spec {a : Affine} (ha : a.OnCurve) :
    (Cached.ofAffine a).Valid ∧ (Cached.ofAffine a).aff = a := by
  have := fact_prime
  refine cached_valid ha ?_ ?_ ?_ ?_ <;> simp [Cached.ofAffine]

/-- The identity, Extended (R34). -/
theorem extended_identity_spec : Extended.identity.Valid ∧ Extended.identity.aff = Affine.identity := by
  have := fact_prime
  refine extended_valid onCurve_identity ?_ ?_ ?_ ?_ <;> simp [Extended.identity, Affine.identity]

/-- The identity, Cached (R174). -/
theorem cached_identity_spec : Cached.identity.Valid ∧ Cached.identity.aff = Affine.identity := by
  have := fact_prime
  refine cached_valid onCurve_identity ?_ ?_ ?_ ?_ <;> simp [Cached.identity, Affine.identity]

end Sys2Proof.Laws
end

