-- ==== Sys2Proof/Laws/Decode.lean ====
section
/-! SUPPORT. The fields of a word and the word of the fields are two views of one thing (spec/30_encoding.md R70), and the
index fields of an encoding are inside their files (R72). -/

set_option Elab.async false

namespace Sys2Proof.Laws

@[simp] theorem ofWord_toWord (x : Fields) : Fields.ofWord x.toWord = x := by
  obtain ⟨op, a, b, c, imm⟩ := x
  simp only [Fields.ofWord, Fields.toWord, Fields.mk.injEq]
  refine ⟨?_, ?_, ?_, ?_, ?_⟩ <;> (apply BitVec.eq_of_getLsbD_eq; intro i hi; simp; try grind)

theorem toWord_ofWord (w : Word) : (Fields.ofWord w).toWord = w := by
  apply BitVec.eq_of_getLsbD_eq
  intro i hi
  simp [Fields.ofWord, Fields.toWord]
  grind

@[simp] theorem fIndex_fField (r : FReg) : fIndex (fField r) = r := by decide +revert

@[simp] theorem pIndex_pField (r : PReg) : pIndex (pField r) = r := by decide +revert

@[simp] theorem bIndex_bField (r : BReg) : bIndex (bField r) = r := by decide +revert

@[simp] theorem pField_lt (r : PReg) : (pField r).toNat < Config.numPointRegs := by decide +revert

@[simp] theorem bField_lt (r : BReg) : (bField r).toNat < Config.numBuffers := by decide +revert

@[simp] theorem boolField_le (i : Bool) : (boolField i).toNat ≤ 1 := by decide +revert

theorem code_lt (v : Variant) : v.code.toNat < 4 := v.code.isLt

@[simp] theorem ofCode_code (v : Variant) : Variant.ofCode v.code = v := by cases v <;> rfl

end Sys2Proof.Laws
end

