-- ==== Sys2Proof/Laws/State.lean ====
section
/-! SUPPORT. The state's small lemmas: what each named update does to each field (each true by `rfl`;
for `writeB` after one unfolding, without which Lean would compare two memories byte by byte), what a read gives after a
write, and the registers after `WIPE` and reset. Proofs cite these and unfold no record update. -/

set_option Elab.async false

namespace Sys2Proof.Laws

open Sys2Proof.Machine

variable (s : State)

/-! ## `writeF` -/

@[simp] theorem writeF_fregs (i : FReg) (v : Fp) : (s.writeF i v).fregs = s.fregs.set i.val (some v) i.isLt := rfl
@[simp] theorem writeF_pregs (i : FReg) (v : Fp) : (s.writeF i v).pregs = s.pregs := rfl
@[simp] theorem writeF_mem (i : FReg) (v : Fp) : (s.writeF i v).mem = s.mem := rfl
@[simp] theorem writeF_cf (i : FReg) (v : Fp) : (s.writeF i v).cf = s.cf := rfl
@[simp] theorem writeF_err (i : FReg) (v : Fp) : (s.writeF i v).err = s.err := rfl
@[simp] theorem writeF_sticky (i : FReg) (v : Fp) : (s.writeF i v).sticky = s.sticky := rfl
@[simp] theorem writeF_pending (i : FReg) (v : Fp) : (s.writeF i v).pending = s.pending := rfl
@[simp] theorem writeF_readData (i : FReg) (v : Fp) : (s.writeF i v).readData = s.readData := rfl

/-! ## `writeP` -/

@[simp] theorem writeP_fregs (i : PReg) (q : Point) : (s.writeP i q).fregs = s.fregs := rfl
@[simp] theorem writeP_pregs (i : PReg) (q : Point) : (s.writeP i q).pregs = s.pregs.set i.val (some q) i.isLt := rfl
@[simp] theorem writeP_mem (i : PReg) (q : Point) : (s.writeP i q).mem = s.mem := rfl
@[simp] theorem writeP_cf (i : PReg) (q : Point) : (s.writeP i q).cf = s.cf := rfl
@[simp] theorem writeP_err (i : PReg) (q : Point) : (s.writeP i q).err = s.err := rfl
@[simp] theorem writeP_sticky (i : PReg) (q : Point) : (s.writeP i q).sticky = s.sticky := rfl
@[simp] theorem writeP_pending (i : PReg) (q : Point) : (s.writeP i q).pending = s.pending := rfl
@[simp] theorem writeP_readData (i : PReg) (q : Point) : (s.writeP i q).readData = s.readData := rfl

/-! ## `emptyP` -/

@[simp] theorem emptyP_fregs (i : PReg) : (s.emptyP i).fregs = s.fregs := rfl
@[simp] theorem emptyP_pregs (i : PReg) : (s.emptyP i).pregs = s.pregs.set i.val none i.isLt := rfl
@[simp] theorem emptyP_mem (i : PReg) : (s.emptyP i).mem = s.mem := rfl
@[simp] theorem emptyP_cf (i : PReg) : (s.emptyP i).cf = s.cf := rfl
@[simp] theorem emptyP_err (i : PReg) : (s.emptyP i).err = s.err := rfl
@[simp] theorem emptyP_sticky (i : PReg) : (s.emptyP i).sticky = s.sticky := rfl
@[simp] theorem emptyP_pending (i : PReg) : (s.emptyP i).pending = s.pending := rfl
@[simp] theorem emptyP_readData (i : PReg) : (s.emptyP i).readData = s.readData := rfl

/-! ## `writeB` -/

@[simp] theorem writeB_fregs (k : BReg) (v : Bytes32) : (s.writeB k v).fregs = s.fregs := by unfold State.writeB; with_reducible rfl
@[simp] theorem writeB_pregs (k : BReg) (v : Bytes32) : (s.writeB k v).pregs = s.pregs := by unfold State.writeB; with_reducible rfl
@[simp] theorem writeB_mem (k : BReg) (v : Bytes32) : (s.writeB k v).mem = s.mem.writeLE (bufferOffset k) Config.bufferBytes v.toNat := by unfold State.writeB; with_reducible rfl
@[simp] theorem writeB_cf (k : BReg) (v : Bytes32) : (s.writeB k v).cf = s.cf := by unfold State.writeB; with_reducible rfl
@[simp] theorem writeB_err (k : BReg) (v : Bytes32) : (s.writeB k v).err = s.err := by unfold State.writeB; with_reducible rfl
@[simp] theorem writeB_sticky (k : BReg) (v : Bytes32) : (s.writeB k v).sticky = s.sticky := by unfold State.writeB; with_reducible rfl
@[simp] theorem writeB_pending (k : BReg) (v : Bytes32) : (s.writeB k v).pending = s.pending := by unfold State.writeB; with_reducible rfl
@[simp] theorem writeB_readData (k : BReg) (v : Bytes32) : (s.writeB k v).readData = s.readData := by unfold State.writeB; with_reducible rfl

/-! ## `writeCf` -/

@[simp] theorem writeCf_fregs (b : Bool) : (s.writeCf b).fregs = s.fregs := rfl
@[simp] theorem writeCf_pregs (b : Bool) : (s.writeCf b).pregs = s.pregs := rfl
@[simp] theorem writeCf_mem (b : Bool) : (s.writeCf b).mem = s.mem := rfl
@[simp] theorem writeCf_cf (b : Bool) : (s.writeCf b).cf = b := rfl
@[simp] theorem writeCf_err (b : Bool) : (s.writeCf b).err = s.err := rfl
@[simp] theorem writeCf_sticky (b : Bool) : (s.writeCf b).sticky = s.sticky := rfl
@[simp] theorem writeCf_pending (b : Bool) : (s.writeCf b).pending = s.pending := rfl
@[simp] theorem writeCf_readData (b : Bool) : (s.writeCf b).readData = s.readData := rfl

/-! ## `wipe` -/

@[simp] theorem wipe_fregs : (s.wipe).fregs = Vector.replicate Config.numFieldRegs none := rfl
@[simp] theorem wipe_pregs : (s.wipe).pregs = Vector.replicate Config.numPointRegs none := rfl
@[simp] theorem wipe_mem : (s.wipe).mem = [] := rfl
@[simp] theorem wipe_cf : (s.wipe).cf = false := rfl
@[simp] theorem wipe_err : (s.wipe).err = s.err := rfl
@[simp] theorem wipe_sticky : (s.wipe).sticky = s.sticky := rfl
@[simp] theorem wipe_pending : (s.wipe).pending = s.pending := rfl
@[simp] theorem wipe_readData : (s.wipe).readData = s.readData := rfl

/-! ## `finish` -/

@[simp] theorem finish_fregs (c : ResultCode) : (s.finish c).fregs = s.fregs := rfl
@[simp] theorem finish_pregs (c : ResultCode) : (s.finish c).pregs = s.pregs := rfl
@[simp] theorem finish_mem (c : ResultCode) : (s.finish c).mem = s.mem := rfl
@[simp] theorem finish_cf (c : ResultCode) : (s.finish c).cf = s.cf := rfl
@[simp] theorem finish_err (c : ResultCode) : (s.finish c).err = c := rfl
@[simp] theorem finish_sticky (c : ResultCode) : (s.finish c).sticky = (s.sticky || c.setsSticky) := rfl
@[simp] theorem finish_pending (c : ResultCode) : (s.finish c).pending = s.pending := rfl
@[simp] theorem finish_readData (c : ResultCode) : (s.finish c).readData = s.readData := rfl

/-! ## `resetEvent` -/

@[simp] theorem resetEvent_fregs : (s.resetEvent).fregs = State.reset.fregs := rfl
@[simp] theorem resetEvent_pregs : (s.resetEvent).pregs = State.reset.pregs := rfl
@[simp] theorem resetEvent_mem : (s.resetEvent).mem = State.reset.mem := rfl
@[simp] theorem resetEvent_cf : (s.resetEvent).cf = State.reset.cf := rfl
@[simp] theorem resetEvent_err : (s.resetEvent).err = State.reset.err := rfl
@[simp] theorem resetEvent_sticky : (s.resetEvent).sticky = State.reset.sticky := rfl
@[simp] theorem resetEvent_pending : (s.resetEvent).pending = s.pending := rfl
@[simp] theorem resetEvent_readData : (s.resetEvent).readData = s.readData := rfl

/-! ## Reads after an update of another file -/

@[simp] theorem writeF_readP (i : FReg) (v : Fp) (j : PReg) : (s.writeF i v).readP j = s.readP j := rfl
@[simp] theorem writeF_readB (i : FReg) (v : Fp) (j : BReg) : (s.writeF i v).readB j = s.readB j := rfl
@[simp] theorem writeP_readF (i : PReg) (q : Point) (j : FReg) : (s.writeP i q).readF j = s.readF j := rfl
@[simp] theorem writeP_readB (i : PReg) (q : Point) (j : BReg) : (s.writeP i q).readB j = s.readB j := rfl
@[simp] theorem emptyP_readF (i : PReg) (j : FReg) : (s.emptyP i).readF j = s.readF j := rfl
@[simp] theorem emptyP_readB (i : PReg) (j : BReg) : (s.emptyP i).readB j = s.readB j := rfl
@[simp] theorem writeB_readF (k : BReg) (v : Bytes32) (j : FReg) : (s.writeB k v).readF j = s.readF j := by unfold State.readF; rw [writeB_fregs]
@[simp] theorem writeB_readP (k : BReg) (v : Bytes32) (j : PReg) : (s.writeB k v).readP j = s.readP j := by unfold State.readP; rw [writeB_pregs]
@[simp] theorem writeCf_readF (b : Bool) (j : FReg) : (s.writeCf b).readF j = s.readF j := rfl
@[simp] theorem writeCf_readP (b : Bool) (j : PReg) : (s.writeCf b).readP j = s.readP j := rfl
@[simp] theorem writeCf_readB (b : Bool) (j : BReg) : (s.writeCf b).readB j = s.readB j := rfl
@[simp] theorem finish_readF (c : ResultCode) (j : FReg) : (s.finish c).readF j = s.readF j := rfl
@[simp] theorem finish_readP (c : ResultCode) (j : PReg) : (s.finish c).readP j = s.readP j := rfl
@[simp] theorem finish_readB (c : ResultCode) (j : BReg) : (s.finish c).readB j = s.readB j := rfl

/-! ## Reads after an update of the same file -/

theorem readF_writeF (i j : FReg) (v : Fp) : (s.writeF i v).readF j = if j = i then some v else s.readF j := by
  simp only [State.readF, State.writeF, Vector.get_eq_getElem, Vector.getElem_set, Fin.ext_iff, eq_comm]

theorem readP_writeP (i j : PReg) (q : Point) : (s.writeP i q).readP j = if j = i then some q else s.readP j := by
  simp only [State.readP, State.writeP, Vector.get_eq_getElem, Vector.getElem_set, Fin.ext_iff, eq_comm]

theorem readP_emptyP (i j : PReg) : (s.emptyP i).readP j = if j = i then none else s.readP j := by
  simp only [State.readP, State.emptyP, Vector.get_eq_getElem, Vector.getElem_set, Fin.ext_iff, eq_comm]

@[simp] theorem readF_writeF_self (i : FReg) (v : Fp) : (s.writeF i v).readF i = some v := by simp [readF_writeF]

@[simp] theorem readP_writeP_self (i : PReg) (q : Point) : (s.writeP i q).readP i = some q := by simp [readP_writeP]

@[simp] theorem readP_emptyP_self (i : PReg) : (s.emptyP i).readP i = none := by simp [readP_emptyP]

theorem readF_writeF_of_ne {i j : FReg} (h : j ≠ i) (v : Fp) : (s.writeF i v).readF j = s.readF j := by
  simp [readF_writeF, h]

theorem readP_writeP_of_ne {i j : PReg} (h : j ≠ i) (q : Point) : (s.writeP i q).readP j = s.readP j := by
  simp [readP_writeP, h]

theorem readP_emptyP_of_ne {i j : PReg} (h : j ≠ i) : (s.emptyP i).readP j = s.readP j := by
  simp [readP_emptyP, h]

/-! ## `WIPE` and reset leave every register Empty (R24, R37, R192) -/

@[simp] theorem wipe_readF (j : FReg) : s.wipe.readF j = none := by
  simp [State.readF, State.wipe, Vector.get_eq_getElem]

@[simp] theorem wipe_readP (j : PReg) : s.wipe.readP j = none := by
  simp [State.readP, State.wipe, Vector.get_eq_getElem]

@[simp] theorem reset_readF (j : FReg) : State.reset.readF j = none := by
  simp [State.readF, State.reset, Vector.get_eq_getElem]

@[simp] theorem reset_readP (j : PReg) : State.reset.readP j = none := by
  simp [State.readP, State.reset, Vector.get_eq_getElem]

@[simp] theorem resetEvent_readF (j : FReg) : s.resetEvent.readF j = none := reset_readF j

@[simp] theorem resetEvent_readP (j : PReg) : s.resetEvent.readP j = none := reset_readP j

/-! ## How a command ends -/

@[simp] theorem done_eq : s.done = .next (s.finish .ok) := rfl

@[simp] theorem raise_eq (c : ResultCode) : s.raise c = .next (s.finish c) := rfl

@[simp] theorem raiseDecode_eq (pd : PReg) : s.raiseDecode pd = .next ((s.emptyP pd).finish .decode) := rfl

end Sys2Proof.Laws
end

