-- ==== Sys2Proof/Laws/Memory.lean ====
section
/-! SUPPORT. The laws of memory (spec/20_memory.md R53, R56, R57): a read after a write, that every memory operation
keeps the canonical form `Memory.wf` and lists buffer bytes only, that equal reads mean equal memories, and the same
for the buffers as 32-byte strings. -/

set_option Elab.async false

namespace Sys2Proof.Laws

open Sys2Proof.Machine

/-! ## The canonical form -/

theorem wf_cons {a : ℕ} {b : Byte} {m : Memory} :
    Memory.wf ((a, b) :: m) = true ↔ b ≠ Memory.unlisted ∧ (∀ c ∈ m, a < c.1) ∧ m.wf = true := by
  simp [Memory.wf, and_assoc]

@[simp] theorem wf_nil : Memory.wf [] = true := rfl

/-- An offset below every listed one reads as unlisted. -/
theorem read_of_lt {m : Memory} {x : ℕ} (h : ∀ c ∈ m, x < c.1) : m.read x = Memory.unlisted := by
  induction m with
  | nil => rfl
  | cons c m ih =>
    obtain ⟨a, b⟩ := c
    have ha : x < a := h (a, b) (by simp)
    rw [Memory.read, if_neg (by omega)]
    exact ih fun d hd => h d (by simp [hd])

theorem mem_write {m : Memory} {x : ℕ} {v : Byte} {c : Host.Cell} (h : c ∈ m.write x v) : c = (x, v) ∨ c ∈ m := by
  induction m with
  | nil =>
    simp only [Memory.write] at h
    split at h <;> simp_all
  | cons d m ih =>
    obtain ⟨a, b⟩ := d
    simp only [Memory.write] at h
    split_ifs at h <;> simp only [List.mem_cons] at h ⊢ <;> tauto

/-- A write keeps the canonical form. -/
theorem wf_write {m : Memory} (h : m.wf = true) (x : ℕ) (v : Byte) : (m.write x v).wf = true := by
  induction m with
  | nil =>
    simp only [Memory.write]
    split_ifs with hv
    · rfl
    · simp [wf_cons, hv]
  | cons d m ih =>
    obtain ⟨a, b⟩ := d
    obtain ⟨hb, hm, hw⟩ := wf_cons.1 h
    simp only [Memory.write]
    split_ifs with h1 hv h2 hv
    · exact h
    · rw [wf_cons]
      refine ⟨hv, ?_, h⟩
      intro c hc
      rcases List.mem_cons.1 hc with rfl | hc
      · exact h1
      · exact lt_trans h1 (hm c hc)
    · exact hw
    · exact wf_cons.2 ⟨hv, by rw [h2]; exact hm, hw⟩
    · rw [wf_cons]
      refine ⟨hb, fun c hc => ?_, ih hw⟩
      rcases mem_write hc with rfl | hc
      · simp only; omega
      · exact hm c hc

/-- A read after a write (R56). -/
theorem read_write {m : Memory} (h : m.wf = true) (x y : ℕ) (v : Byte) :
    (m.write x v).read y = if y = x then v else m.read y := by
  induction m with
  | nil =>
    simp only [Memory.write, Memory.read]
    split_ifs with hv h1 h1 <;> simp_all [Memory.read, eq_comm]
  | cons d m ih =>
    obtain ⟨a, b⟩ := d
    obtain ⟨hb, hm, hw⟩ := wf_cons.1 h
    have hlow : ∀ {z : ℕ}, z < a → Memory.read ((a, b) :: m) z = Memory.unlisted := by
      intro z hz
      apply read_of_lt
      intro c hc
      rcases List.mem_cons.1 hc with rfl | hc
      · exact hz
      · exact lt_trans hz (hm c hc)
    simp only [Memory.write]
    by_cases h1 : x < a
    · rw [if_pos h1]
      by_cases hv : v = Memory.unlisted
      · rw [if_pos hv]
        by_cases hy : y = x
        · rw [if_pos hy, hy, hlow h1, hv]
        · rw [if_neg hy]
      · rw [if_neg hv, Memory.read]
    · rw [if_neg h1]
      by_cases h2 : x = a
      · rw [if_pos h2]
        by_cases hv : v = Memory.unlisted
        · rw [if_pos hv]
          by_cases hy : y = x
          · rw [if_pos hy, hy, h2, hv]; exact read_of_lt hm
          · rw [if_neg hy, Memory.read, if_neg (by omega)]
        · rw [if_neg hv, Memory.read, Memory.read, ← h2]
          split_ifs <;> rfl
      · rw [if_neg h2, Memory.read, Memory.read, ih hw]
        by_cases hy : y = a
        · rw [if_pos hy, if_neg (by omega), if_pos hy]
        · rw [if_neg hy, if_neg hy]

theorem inBuffers_iff {m : Memory} :
    m.inBuffers = true ↔ ∀ c ∈ m, Config.bufferBase ≤ c.1 ∧ c.1 < Config.windowBytes := by
  simp [Memory.inBuffers]

/-- A write to a buffer byte keeps the listed offsets those of buffer bytes. -/
theorem inBuffers_write {m : Memory} (h : m.inBuffers = true) {x : ℕ} (hx : Config.bufferBase ≤ x)
    (hx' : x < Config.windowBytes) (v : Byte) : (m.write x v).inBuffers = true := by
  rw [inBuffers_iff] at h ⊢
  intro c hc
  rcases mem_write hc with rfl | hc
  · exact ⟨hx, hx'⟩
  · exact h c hc

/-- Memories in canonical form that read alike are equal. -/
theorem memory_ext {m n : Memory} (hm : m.wf = true) (hn : n.wf = true) (h : ∀ x, m.read x = n.read x) : m = n := by
  induction m generalizing n with
  | nil =>
    cases n with
    | nil => rfl
    | cons d n =>
      obtain ⟨a, b⟩ := d
      have := h a
      rw [Memory.read, Memory.read, if_pos rfl] at this
      exact absurd this.symm (wf_cons.1 hn).1
  | cons c m ih =>
    obtain ⟨a, b⟩ := c
    obtain ⟨hb, hma, hmw⟩ := wf_cons.1 hm
    cases n with
    | nil =>
      have := h a
      rw [Memory.read, Memory.read, if_pos rfl] at this
      exact absurd this hb
    | cons d n =>
      obtain ⟨a', b'⟩ := d
      obtain ⟨hb', hna, hnw⟩ := wf_cons.1 hn
      have hlt : ∀ {x y : ℕ} {w : Byte} {l : Memory}, x < y → (∀ c ∈ l, y < c.1) →
          Memory.read ((y, w) :: l) x = Memory.unlisted := by
        intro x y w l hxy hl
        apply read_of_lt
        intro c hc
        rcases List.mem_cons.1 hc with rfl | hc
        · exact hxy
        · exact lt_trans hxy (hl c hc)
      rcases lt_trichotomy a a' with hl | rfl | hl
      · have := h a
        rw [hlt hl hna, Memory.read, if_pos rfl] at this
        exact absurd this hb
      · have := h a
        rw [Memory.read, Memory.read, if_pos rfl, if_pos rfl] at this
        subst this
        rw [ih hmw hnw]
        intro x
        by_cases hx : a = x
        · subst hx; rw [read_of_lt hma, read_of_lt hna]
        · have := h x
          rwa [Memory.read, Memory.read, if_neg (Ne.symm hx), if_neg (Ne.symm hx)] at this
      · have := h a'
        rw [hlt hl hma, Memory.read, if_pos rfl] at this
        exact absurd this.symm hb'

/-! ## Several bytes, least significant at the lowest offset (R57) -/

theorem wf_writeLE (n : ℕ) : ∀ {m : Memory}, m.wf = true → ∀ x v, (m.writeLE x n v).wf = true := by
  induction n with
  | zero => intro m h x v; exact h
  | succ n ih => intro m h x v; exact ih (wf_write h _ _) _ _

theorem inBuffers_writeLE (n : ℕ) : ∀ {m : Memory}, m.inBuffers = true → ∀ {x : ℕ}, Config.bufferBase ≤ x →
    x + n ≤ Config.windowBytes → ∀ v, (m.writeLE x n v).inBuffers = true := by
  induction n with
  | zero => intro m h x _ _ v; exact h
  | succ n ih =>
    intro m h x hx hx' v
    exact ih (inBuffers_write h hx (by omega) _) (by omega) (by omega) _

/-- The bytes after a store: byte j of v at offset x + j for j < n, every other byte as before. -/
theorem read_writeLE (n : ℕ) : ∀ {m : Memory}, m.wf = true → ∀ x v y, (m.writeLE x n v).read y =
    if x ≤ y ∧ y < x + n then BitVec.ofNat 8 (v / 256 ^ (y - x)) else m.read y := by
  induction n with
  | zero => intro m h x v y; simp only [Memory.writeLE]; rw [if_neg (by omega)]
  | succ n ih =>
    intro m h x v y
    simp only [Memory.writeLE]
    rw [ih (wf_write h _ _), read_write h]
    by_cases hy : y = x
    · subst hy; simp
    · by_cases hr : x + 1 ≤ y ∧ y < x + 1 + n
      · rw [if_pos hr, if_pos (by omega), Nat.div_div_eq_div_mul, ← pow_succ', show y - x = y - (x + 1) + 1 by omega]
      · rw [if_neg hr, if_neg hy, if_neg (by omega)]

theorem readLE_congr {m m' : Memory} (n : ℕ) : ∀ x, (∀ y, x ≤ y → y < x + n → m.read y = m'.read y) →
    m.readLE x n = m'.readLE x n := by
  induction n with
  | zero => intro x _; rfl
  | succ n ih =>
    intro x h
    rw [Memory.readLE, Memory.readLE, h x le_rfl (by omega), ih (x + 1) fun y h1 h2 => h y (by omega) (by omega)]

theorem readLE_lt (m : Memory) (n : ℕ) : ∀ x, m.readLE x n < 256 ^ n := by
  induction n with
  | zero => intro x; simp [Memory.readLE]
  | succ n ih =>
    intro x
    have := ih (x + 1)
    have hb := (m.read x).isLt
    rw [Memory.readLE, pow_succ]
    omega

/-- The bytes of a number, read back, are the number. -/
theorem readLE_of_bytes {m : Memory} (n : ℕ) : ∀ x v, (∀ j < n, m.read (x + j) = BitVec.ofNat 8 (v / 256 ^ j)) →
    m.readLE x n = v % 256 ^ n := by
  induction n with
  | zero => intro x v _; simp [Memory.readLE, Nat.mod_one]
  | succ n ih =>
    intro x v h
    have h0 := h 0 (by omega)
    simp only [Nat.add_zero, pow_zero, Nat.div_one] at h0
    rw [Memory.readLE, h0, ih (x + 1) (v / 256) fun j hj => ?_, pow_succ', Nat.mod_mul]
    · simp
    · have := h (j + 1) (by omega)
      rw [show x + 1 + j = x + (j + 1) by omega, this, Nat.div_div_eq_div_mul, pow_succ']

theorem readLE_writeLE_self {m : Memory} (h : m.wf = true) (x n v : ℕ) :
    (m.writeLE x n v).readLE x n = v % 256 ^ n := by
  apply readLE_of_bytes
  intro j hj
  rw [read_writeLE n h, if_pos (by omega), Nat.add_sub_cancel_left]

theorem readLE_writeLE_disjoint {m : Memory} (h : m.wf = true) {x y n k : ℕ} (hd : y + k ≤ x ∨ x + n ≤ y) (v : ℕ) :
    (m.writeLE x n v).readLE y k = m.readLE y k := by
  apply readLE_congr
  intro z h1 h2
  rw [read_writeLE n h, if_neg (by omega)]

theorem readLE_nil (n : ℕ) : ∀ x, Memory.readLE [] x n = 0 := by
  induction n with
  | zero => intro x; rfl
  | succ n ih => intro x; simp [Memory.readLE, ih, Memory.read, Memory.unlisted]

/-! ## Buffers (R25, R51, R56) -/

theorem bufferOffset_base (k : BReg) : Config.bufferBase ≤ bufferOffset k := Nat.le_add_right _ _

theorem bufferOffset_end (k : BReg) : bufferOffset k + Config.bufferBytes ≤ Config.windowBytes := by
  have : k.val < 4 := k.isLt
  simp only [bufferOffset, Config.bufferBase, Config.bufferBytes, Config.windowBytes]
  omega

theorem bufferOffset_disjoint {j k : BReg} (h : j ≠ k) :
    bufferOffset j + Config.bufferBytes ≤ bufferOffset k ∨ bufferOffset k + Config.bufferBytes ≤ bufferOffset j := by
  have : j.val ≠ k.val := fun e => h (Fin.ext e)
  simp only [bufferOffset, Config.bufferBase, Config.bufferBytes]
  omega

/-- Every byte after a buffer is written: the 32 bytes are those of `v`, every other byte is as before. -/
theorem writeB_read {s : State} (h : s.mem.wf = true) (k : BReg) (v : Bytes32) (y : ℕ) : (s.writeB k v).mem.read y =
    if bufferOffset k ≤ y ∧ y < bufferOffset k + Config.bufferBytes then
      BitVec.ofNat 8 (v.toNat / 256 ^ (y - bufferOffset k)) else s.mem.read y := by
  rw [writeB_mem, read_writeLE _ h]

/-- A buffer after a buffer is written. -/
theorem readB_writeB {s : State} (h : s.mem.wf = true) (j k : BReg) (v : Bytes32) :
    (s.writeB k v).readB j = if j = k then v else s.readB j := by
  rw [State.readB, writeB_mem]
  split_ifs with hjk
  · subst hjk
    rw [readLE_writeLE_self h, show (256 ^ Config.bufferBytes : ℕ) = 2 ^ 256 by decide]
    exact BitVec.eq_of_toNat_eq (by simpa using v.isLt)
  · rw [readLE_writeLE_disjoint h (bufferOffset_disjoint hjk)]; rfl

theorem readB_congr {s t : State} (h : s.mem = t.mem) (k : BReg) : s.readB k = t.readB k := by
  rw [State.readB, State.readB, h]

/-- The bytes of a buffer as a number. -/
theorem readB_toNat (s : State) (k : BReg) : (s.readB k).toNat = s.mem.readLE (bufferOffset k) Config.bufferBytes := by
  rw [State.readB, BitVec.toNat_ofNat]
  exact Nat.mod_eq_of_lt (lt_of_lt_of_eq (readLE_lt _ _ _) (by decide))

@[simp] theorem wipe_readB (s : State) (k : BReg) : s.wipe.readB k = 0 := by simp [State.readB, readLE_nil]

@[simp] theorem reset_readB (k : BReg) : State.reset.readB k = 0 := by simp [State.readB, State.reset, readLE_nil]

/-! ## The memory invariant of the state -/

theorem memValid_reset : State.reset.mem.wf = true ∧ State.reset.mem.inBuffers = true := ⟨rfl, rfl⟩

theorem wf_writeB {s : State} (h : s.mem.wf = true) (k : BReg) (v : Bytes32) : (s.writeB k v).mem.wf = true := by
  rw [writeB_mem]; exact wf_writeLE _ h _ _

theorem inBuffers_writeB {s : State} (h : s.mem.inBuffers = true) (k : BReg) (v : Bytes32) :
    (s.writeB k v).mem.inBuffers = true := by
  rw [writeB_mem]; exact inBuffers_writeLE _ h (bufferOffset_base k) (bufferOffset_end k) _

end Sys2Proof.Laws
end

