-- ==== Sys2Proof/Laws/Operands.lean ====
section
/-! SUPPORT. What each operand form answers (spec/60_exceptions.md R220 to R222), a host access and a step
(spec/20_memory.md R52 to R54): an equation for each case, and one `_cases` lemma that says everything the operation
can do. The provers cite these and unfold no operand form. -/

set_option Elab.async false

namespace Sys2Proof.Laws

open Sys2Proof.Machine

variable {s : State}

/-! ## Field sources -/

theorem unaryF_empty {fd fs : FReg} (op : Fp → Fp) (h : s.readF fs = none) : unaryF fd fs op s = .next (s.finish .uninit) := by
  simp [unaryF, h]

theorem unaryF_written {fd fs : FReg} (op : Fp → Fp) {a : Fp} (h : s.readF fs = some a) :
    unaryF fd fs op s = .next ((s.writeF fd (op a)).finish .ok) := by
  simp [unaryF, h]

theorem unaryF_cases {fd fs : FReg} (op : Fp → Fp) : ∃ t, unaryF fd fs op s = .next t ∧
    ((s.readF fs = none ∧ t = s.finish .uninit) ∨ ∃ a, s.readF fs = some a ∧ t = (s.writeF fd (op a)).finish .ok) := by
  cases h : s.readF fs with
  | none => exact ⟨_, unaryF_empty _ h, .inl ⟨rfl, rfl⟩⟩
  | some a => exact ⟨_, unaryF_written _ h, .inr ⟨a, rfl, rfl⟩⟩

theorem testF_empty {fs : FReg} (op : Fp → Bool) (h : s.readF fs = none) : testF fs op s = .next (s.finish .uninit) := by
  simp [testF, h]

theorem testF_written {fs : FReg} (op : Fp → Bool) {a : Fp} (h : s.readF fs = some a) :
    testF fs op s = .next ((s.writeCf (op a)).finish .ok) := by
  simp [testF, h]

theorem testF_cases {fs : FReg} (op : Fp → Bool) : ∃ t, testF fs op s = .next t ∧
    ((s.readF fs = none ∧ t = s.finish .uninit) ∨ ∃ a, s.readF fs = some a ∧ t = (s.writeCf (op a)).finish .ok) := by
  cases h : s.readF fs with
  | none => exact ⟨_, testF_empty _ h, .inl ⟨rfl, rfl⟩⟩
  | some a => exact ⟨_, testF_written _ h, .inr ⟨a, rfl, rfl⟩⟩

theorem storeF_empty {bd : BReg} {fs : FReg} (op : Fp → Bytes32) (h : s.readF fs = none) : storeF bd fs op s = .next (s.finish .uninit) := by
  simp [storeF, h]

theorem storeF_written {bd : BReg} {fs : FReg} (op : Fp → Bytes32) {a : Fp} (h : s.readF fs = some a) :
    storeF bd fs op s = .next ((s.writeB bd (op a)).finish .ok) := by
  simp [storeF, h]

theorem storeF_cases {bd : BReg} {fs : FReg} (op : Fp → Bytes32) : ∃ t, storeF bd fs op s = .next t ∧
    ((s.readF fs = none ∧ t = s.finish .uninit) ∨ ∃ a, s.readF fs = some a ∧ t = (s.writeB bd (op a)).finish .ok) := by
  cases h : s.readF fs with
  | none => exact ⟨_, storeF_empty _ h, .inl ⟨rfl, rfl⟩⟩
  | some a => exact ⟨_, storeF_written _ h, .inr ⟨a, rfl, rfl⟩⟩

theorem binaryF_empty {fd fs1 fs2 : FReg} (op : Fp → Fp → Fp) (h : s.readF fs1 = none ∨ s.readF fs2 = none) :
    binaryF fd fs1 fs2 op s = .next (s.finish .uninit) := by
  rcases h with h | h <;> cases h1 : s.readF fs1 <;> simp_all [binaryF]

theorem binaryF_written {fd fs1 fs2 : FReg} (op : Fp → Fp → Fp) {a b : Fp} (h1 : s.readF fs1 = some a) (h2 : s.readF fs2 = some b) :
    binaryF fd fs1 fs2 op s = .next ((s.writeF fd (op a b)).finish .ok) := by
  simp [binaryF, h1, h2]

theorem binaryF_cases {fd fs1 fs2 : FReg} (op : Fp → Fp → Fp) : ∃ t, binaryF fd fs1 fs2 op s = .next t ∧
    (((s.readF fs1 = none ∨ s.readF fs2 = none) ∧ t = s.finish .uninit) ∨
      ∃ a b, s.readF fs1 = some a ∧ s.readF fs2 = some b ∧ t = (s.writeF fd (op a b)).finish .ok) := by
  cases h1 : s.readF fs1 with
  | none => exact ⟨_, binaryF_empty _ (.inl h1), .inl ⟨.inl rfl, rfl⟩⟩
  | some a =>
    cases h2 : s.readF fs2 with
    | none => exact ⟨_, binaryF_empty _ (.inr h2), .inl ⟨.inr rfl, rfl⟩⟩
    | some b => exact ⟨_, binaryF_written _ h1 h2, .inr ⟨a, b, rfl, rfl, rfl⟩⟩

/-! ## Point sources -/

theorem unaryP_empty {pd ps : PReg} (op : Point → Option Point) (h : s.readP ps = none) : unaryP pd ps op s = .next (s.finish .uninit) := by
  simp [unaryP, h]

theorem unaryP_tag {pd ps : PReg} (op : Point → Option Point) {q : Point} (h : s.readP ps = some q) (hq : op q = none) :
    unaryP pd ps op s = .next (s.finish .tag) := by
  simp [unaryP, h, hq]

theorem unaryP_written {pd ps : PReg} (op : Point → Option Point) {q : Point} {r} (h : s.readP ps = some q) (hq : op q = some r) :
    unaryP pd ps op s = .next ((s.writeP pd r).finish .ok) := by
  simp [unaryP, h, hq]

theorem unaryP_cases {pd ps : PReg} (op : Point → Option Point) : ∃ t, unaryP pd ps op s = .next t ∧
    ((s.readP ps = none ∧ t = s.finish .uninit) ∨ (∃ q, s.readP ps = some q ∧ op q = none ∧ t = s.finish .tag) ∨
      ∃ q r, s.readP ps = some q ∧ op q = some r ∧ t = (s.writeP pd r).finish .ok) := by
  cases h : s.readP ps with
  | none => exact ⟨_, unaryP_empty _ h, .inl ⟨rfl, rfl⟩⟩
  | some q =>
    cases hq : op q with
    | none => exact ⟨_, unaryP_tag _ h hq, .inr (.inl ⟨q, rfl, hq, rfl⟩)⟩
    | some r => exact ⟨_, unaryP_written _ h hq, .inr (.inr ⟨q, r, rfl, hq, rfl⟩)⟩

theorem binaryP_empty {pd ps1 ps2 : PReg} (op : Point → Point → Option Point) (h : s.readP ps1 = none ∨ s.readP ps2 = none) :
    binaryP pd ps1 ps2 op s = .next (s.finish .uninit) := by
  rcases h with h | h <;> cases h1 : s.readP ps1 <;> simp_all [binaryP]

theorem binaryP_tag {pd ps1 ps2 : PReg} (op : Point → Point → Option Point) {q1 q2 : Point} (h1 : s.readP ps1 = some q1) (h2 : s.readP ps2 = some q2)
    (hq : op q1 q2 = none) : binaryP pd ps1 ps2 op s = .next (s.finish .tag) := by
  simp [binaryP, h1, h2, hq]

theorem binaryP_written {pd ps1 ps2 : PReg} (op : Point → Point → Option Point) {q1 q2 r : Point} (h1 : s.readP ps1 = some q1) (h2 : s.readP ps2 = some q2)
    (hq : op q1 q2 = some r) : binaryP pd ps1 ps2 op s = .next ((s.writeP pd r).finish .ok) := by
  simp [binaryP, h1, h2, hq]

theorem binaryP_cases {pd ps1 ps2 : PReg} (op : Point → Point → Option Point) : ∃ t, binaryP pd ps1 ps2 op s = .next t ∧
    (((s.readP ps1 = none ∨ s.readP ps2 = none) ∧ t = s.finish .uninit) ∨
      (∃ q1 q2, s.readP ps1 = some q1 ∧ s.readP ps2 = some q2 ∧ op q1 q2 = none ∧ t = s.finish .tag) ∨
      ∃ q1 q2 r, s.readP ps1 = some q1 ∧ s.readP ps2 = some q2 ∧ op q1 q2 = some r ∧
        t = (s.writeP pd r).finish .ok) := by
  cases h1 : s.readP ps1 with
  | none => exact ⟨_, binaryP_empty _ (.inl h1), .inl ⟨.inl rfl, rfl⟩⟩
  | some q1 =>
    cases h2 : s.readP ps2 with
    | none => exact ⟨_, binaryP_empty _ (.inr h2), .inl ⟨.inr rfl, rfl⟩⟩
    | some q2 =>
      cases hq : op q1 q2 with
      | none => exact ⟨_, binaryP_tag _ h1 h2 hq, .inr (.inl ⟨q1, q2, rfl, rfl, hq, rfl⟩)⟩
      | some r => exact ⟨_, binaryP_written _ h1 h2 hq, .inr (.inr ⟨q1, q2, r, rfl, rfl, hq, rfl⟩)⟩

theorem extractP_empty {fd : FReg} {ps : PReg} (op : Point → Option Fp) (h : s.readP ps = none) : extractP fd ps op s = .next (s.finish .uninit) := by
  simp [extractP, h]

theorem extractP_tag {fd : FReg} {ps : PReg} (op : Point → Option Fp) {q : Point} (h : s.readP ps = some q) (hq : op q = none) :
    extractP fd ps op s = .next (s.finish .tag) := by
  simp [extractP, h, hq]

theorem extractP_written {fd : FReg} {ps : PReg} (op : Point → Option Fp) {q : Point} {r} (h : s.readP ps = some q) (hq : op q = some r) :
    extractP fd ps op s = .next ((s.writeF fd r).finish .ok) := by
  simp [extractP, h, hq]

theorem extractP_cases {fd : FReg} {ps : PReg} (op : Point → Option Fp) : ∃ t, extractP fd ps op s = .next t ∧
    ((s.readP ps = none ∧ t = s.finish .uninit) ∨ (∃ q, s.readP ps = some q ∧ op q = none ∧ t = s.finish .tag) ∨
      ∃ q r, s.readP ps = some q ∧ op q = some r ∧ t = (s.writeF fd r).finish .ok) := by
  cases h : s.readP ps with
  | none => exact ⟨_, extractP_empty _ h, .inl ⟨rfl, rfl⟩⟩
  | some q =>
    cases hq : op q with
    | none => exact ⟨_, extractP_tag _ h hq, .inr (.inl ⟨q, rfl, hq, rfl⟩)⟩
    | some r => exact ⟨_, extractP_written _ h hq, .inr (.inr ⟨q, r, rfl, hq, rfl⟩)⟩

theorem storeP_empty {bd : BReg} {ps : PReg} (op : Point → Option Bytes32) (h : s.readP ps = none) : storeP bd ps op s = .next (s.finish .uninit) := by
  simp [storeP, h]

theorem storeP_tag {bd : BReg} {ps : PReg} (op : Point → Option Bytes32) {q : Point} (h : s.readP ps = some q) (hq : op q = none) :
    storeP bd ps op s = .next (s.finish .tag) := by
  simp [storeP, h, hq]

theorem storeP_written {bd : BReg} {ps : PReg} (op : Point → Option Bytes32) {q : Point} {r} (h : s.readP ps = some q) (hq : op q = some r) :
    storeP bd ps op s = .next ((s.writeB bd r).finish .ok) := by
  simp [storeP, h, hq]

theorem storeP_cases {bd : BReg} {ps : PReg} (op : Point → Option Bytes32) : ∃ t, storeP bd ps op s = .next t ∧
    ((s.readP ps = none ∧ t = s.finish .uninit) ∨ (∃ q, s.readP ps = some q ∧ op q = none ∧ t = s.finish .tag) ∨
      ∃ q r, s.readP ps = some q ∧ op q = some r ∧ t = (s.writeB bd r).finish .ok) := by
  cases h : s.readP ps with
  | none => exact ⟨_, storeP_empty _ h, .inl ⟨rfl, rfl⟩⟩
  | some q =>
    cases hq : op q with
    | none => exact ⟨_, storeP_tag _ h hq, .inr (.inl ⟨q, rfl, hq, rfl⟩)⟩
    | some r => exact ⟨_, storeP_written _ h hq, .inr (.inr ⟨q, r, rfl, hq, rfl⟩)⟩

/-! ## Buffer sources -/

theorem decodeP_fail {pd : PReg} {bs : BReg} (op : Bytes32 → Option Point) (h : op (s.readB bs) = none) :
    decodeP pd bs op s = .next ((s.emptyP pd).finish .decode) := by
  simp [decodeP, h]

theorem decodeP_written {pd : PReg} {bs : BReg} (op : Bytes32 → Option Point) {r} (h : op (s.readB bs) = some r) :
    decodeP pd bs op s = .next ((s.writeP pd r).finish .ok) := by
  simp [decodeP, h]

theorem decodeP_cases {pd : PReg} {bs : BReg} (op : Bytes32 → Option Point) : ∃ t, decodeP pd bs op s = .next t ∧
    ((op (s.readB bs) = none ∧ t = (s.emptyP pd).finish .decode) ∨
      ∃ r, op (s.readB bs) = some r ∧ t = (s.writeP pd r).finish .ok) := by
  cases h : op (s.readB bs) with
  | none => exact ⟨_, decodeP_fail _ h, .inl ⟨rfl, rfl⟩⟩
  | some r => exact ⟨_, decodeP_written _ h, .inr ⟨r, rfl, rfl⟩⟩

theorem scalarP_range {pd : PReg} {bs : BReg} (op : Nat → Option Point) (h : op (s.readB bs).toNat = none) :
    scalarP pd bs op s = .next (s.finish .range) := by
  simp [scalarP, h]

theorem scalarP_written {pd : PReg} {bs : BReg} (op : Nat → Option Point) {r} (h : op (s.readB bs).toNat = some r) :
    scalarP pd bs op s = .next ((s.writeP pd r).finish .ok) := by
  simp [scalarP, h]

theorem scalarP_cases {pd : PReg} {bs : BReg} (op : Nat → Option Point) : ∃ t, scalarP pd bs op s = .next t ∧
    ((op (s.readB bs).toNat = none ∧ t = s.finish .range) ∨
      ∃ r, op (s.readB bs).toNat = some r ∧ t = (s.writeP pd r).finish .ok) := by
  cases h : op (s.readB bs).toNat with
  | none => exact ⟨_, scalarP_range _ h, .inl ⟨rfl, rfl⟩⟩
  | some r => exact ⟨_, scalarP_written _ h, .inr ⟨r, rfl, rfl⟩⟩

/-! ## Host accesses and steps -/

/-- An access that the guard lets through is one the spec defines (R52, R53, R58). -/
theorem guardAccess_next {addr n : Nat} {k : Answer} {t : State} (h : guardAccess addr n k = .next t) :
    (n = 1 ∨ n = 2 ∨ n = 4) ∧ addr + n ≤ Config.windowBytes ∧ addr % n = 0 ∧ k = .next t := by
  unfold guardAccess at h
  split_ifs at h with h1 h2 h3
  exact ⟨by omega, by omega, not_not.1 h3, h⟩

/-- A defined access is let through. -/
theorem guardAccess_defined {addr n : Nat} (k : Answer) (h1 : n = 1 ∨ n = 2 ∨ n = 4)
    (h2 : addr + n ≤ Config.windowBytes) (h3 : addr % n = 0) : guardAccess addr n k = k := by
  unfold guardAccess
  rw [if_neg (by omega), if_neg (by omega), if_neg (by omega)]

/-- Everything a write can do: store buffer bytes, execute a command, or nothing (R53, R54). -/
theorem memWrite_cases (addr n : Nat) (v : Word) :
    (Config.bufferBase ≤ addr ∧ memWrite s addr n v = .next { s with mem := s.mem.writeLE addr n v.toNat }) ∨
    (addr = Config.cmdOffset ∧ n = 4 ∧ memWrite s addr n v = runCommand v s) ∨
    (addr < Config.bufferBase ∧ ¬ (addr = Config.cmdOffset ∧ n = 4) ∧ memWrite s addr n v = .next s) := by
  unfold memWrite
  split_ifs with h1 h2
  · exact .inl ⟨h1, rfl⟩
  · exact .inr (.inl ⟨h2.1, h2.2, rfl⟩)
  · exact .inr (.inr ⟨by omega, h2, rfl⟩)

/-- Everything a command word can do: its command's meaning, or ILLEGAL (R54, R75). -/
theorem runCommand_cases (w : Word) :
    (∃ i, decode w = .ok i ∧ runCommand w s = exec i s) ∨
    (∃ r, decode w = .error r ∧ runCommand w s = .next (s.finish .illegal)) := by
  unfold runCommand
  cases h : decode w with
  | ok i => exact .inl ⟨i, rfl, rfl⟩
  | error r => exact .inr ⟨r, rfl, rfl⟩

/-- Everything a step that has a next state can do. -/
theorem step_next {t : State} (h : step s = .next t) :
    (s.pending = [] ∧ t = s) ∨
    ∃ a rest, s.pending = a :: rest ∧
      ((∃ addr n, a = .read addr n ∧ (n = 1 ∨ n = 2 ∨ n = 4) ∧ addr + n ≤ Config.windowBytes ∧ addr % n = 0 ∧
          t = { s with pending := rest, readData := memRead { s with pending := rest } addr n }) ∨
       (∃ addr n v, a = .write addr n v ∧ (n = 1 ∨ n = 2 ∨ n = 4) ∧ addr + n ≤ Config.windowBytes ∧ addr % n = 0 ∧
          memWrite { s with pending := rest } addr n v = .next t) ∨
       (a = .reset ∧ t = State.resetEvent { s with pending := rest })) := by
  unfold step at h
  split at h
  · next hp => cases h; exact .inl ⟨hp, rfl⟩
  · next a rest hp =>
    refine .inr ⟨a, rest, hp, ?_⟩
    cases a with
    | read addr n =>
      obtain ⟨h1, h2, h3, h4⟩ := guardAccess_next h
      cases h4
      exact .inl ⟨addr, n, rfl, h1, h2, h3, rfl⟩
    | write addr n v =>
      obtain ⟨h1, h2, h3, h4⟩ := guardAccess_next h
      exact .inr (.inl ⟨addr, n, v, rfl, h1, h2, h3, h4⟩)
    | reset => cases h; exact .inr (.inr ⟨rfl, rfl⟩)

end Sys2Proof.Laws
end

