-- ==== Sys2Proof/Laws/PerInstr.lean ====
section
/-! SUPPORT. The family `Encoding` of statements per instruction: the word of each command has the fields of its row of
spec/30_encoding.md R74, and they pass every check of R71 and R72. -/

set_option Elab.async false

namespace Sys2Proof.Laws.Encoding

/-- What is proved of each command: its word has its row's fields, and they are well formed. -/
def Statement (i : Instr) : Prop := Fields.ofWord (encode i) = i.fields ∧ i.wellFormed = true

theorem statement_of_wellFormed {i : Instr} (h : i.wellFormed = true) : Statement i := ⟨ofWord_toWord _, h⟩

theorem nop : Statement .nop := by
  apply statement_of_wellFormed
  simp [Instr.wellFormed, Instr.fields, Fields.wellFormed, Fields.reject?, shapeOf, Shape.zerosOk, Shape.indexesOk,
    FieldUse.zeroOk, FieldUse.indexOk]

theorem wipe : Statement .wipe := by
  apply statement_of_wellFormed
  simp [Instr.wellFormed, Instr.fields, Fields.wellFormed, Fields.reject?, shapeOf, Shape.zerosOk, Shape.indexesOk,
    FieldUse.zeroOk, FieldUse.indexOk]

theorem cset (i : Bool) : Statement (.cset i) := by
  apply statement_of_wellFormed
  simp [Instr.wellFormed, Instr.fields, Fields.wellFormed, Fields.reject?, shapeOf, Shape.zerosOk, Shape.indexesOk,
    FieldUse.zeroOk, FieldUse.indexOk]

theorem bldl (bd : BReg) : Statement (.bldl bd) := by
  apply statement_of_wellFormed
  simp [Instr.wellFormed, Instr.fields, Fields.wellFormed, Fields.reject?, shapeOf, Shape.zerosOk, Shape.indexesOk,
    FieldUse.zeroOk, FieldUse.indexOk]

theorem fzero (fd : FReg) : Statement (.fzero fd) := by
  apply statement_of_wellFormed
  simp [Instr.wellFormed, Instr.fields, Fields.wellFormed, Fields.reject?, shapeOf, Shape.zerosOk, Shape.indexesOk,
    FieldUse.zeroOk, FieldUse.indexOk]

theorem fone (fd : FReg) : Statement (.fone fd) := by
  apply statement_of_wellFormed
  simp [Instr.wellFormed, Instr.fields, Fields.wellFormed, Fields.reject?, shapeOf, Shape.zerosOk, Shape.indexesOk,
    FieldUse.zeroOk, FieldUse.indexOk]

theorem fmov (fd fs : FReg) : Statement (.fmov fd fs) := by
  apply statement_of_wellFormed
  simp [Instr.wellFormed, Instr.fields, Fields.wellFormed, Fields.reject?, shapeOf, Shape.zerosOk, Shape.indexesOk,
    FieldUse.zeroOk, FieldUse.indexOk]

theorem fadd (fd fs1 fs2 : FReg) : Statement (.fadd fd fs1 fs2) := by
  apply statement_of_wellFormed
  simp [Instr.wellFormed, Instr.fields, Fields.wellFormed, Fields.reject?, shapeOf, Shape.zerosOk, Shape.indexesOk,
    FieldUse.zeroOk, FieldUse.indexOk]

theorem fsub (fd fs1 fs2 : FReg) : Statement (.fsub fd fs1 fs2) := by
  apply statement_of_wellFormed
  simp [Instr.wellFormed, Instr.fields, Fields.wellFormed, Fields.reject?, shapeOf, Shape.zerosOk, Shape.indexesOk,
    FieldUse.zeroOk, FieldUse.indexOk]

theorem fneg (fd fs : FReg) : Statement (.fneg fd fs) := by
  apply statement_of_wellFormed
  simp [Instr.wellFormed, Instr.fields, Fields.wellFormed, Fields.reject?, shapeOf, Shape.zerosOk, Shape.indexesOk,
    FieldUse.zeroOk, FieldUse.indexOk]

theorem fmul (fd fs1 fs2 : FReg) : Statement (.fmul fd fs1 fs2) := by
  apply statement_of_wellFormed
  simp [Instr.wellFormed, Instr.fields, Fields.wellFormed, Fields.reject?, shapeOf, Shape.zerosOk, Shape.indexesOk,
    FieldUse.zeroOk, FieldUse.indexOk]

theorem fsq (fd fs : FReg) : Statement (.fsq fd fs) := by
  apply statement_of_wellFormed
  simp [Instr.wellFormed, Instr.fields, Fields.wellFormed, Fields.reject?, shapeOf, Shape.zerosOk, Shape.indexesOk,
    FieldUse.zeroOk, FieldUse.indexOk]

theorem fsq2 (fd fs : FReg) : Statement (.fsq2 fd fs) := by
  apply statement_of_wellFormed
  simp [Instr.wellFormed, Instr.fields, Fields.wellFormed, Fields.reject?, shapeOf, Shape.zerosOk, Shape.indexesOk,
    FieldUse.zeroOk, FieldUse.indexOk]

theorem finv (fd fs : FReg) : Statement (.finv fd fs) := by
  apply statement_of_wellFormed
  simp [Instr.wellFormed, Instr.fields, Fields.wellFormed, Fields.reject?, shapeOf, Shape.zerosOk, Shape.indexesOk,
    FieldUse.zeroOk, FieldUse.indexOk]

theorem fcneg (fd fs : FReg) : Statement (.fcneg fd fs) := by
  apply statement_of_wellFormed
  simp [Instr.wellFormed, Instr.fields, Fields.wellFormed, Fields.reject?, shapeOf, Shape.zerosOk, Shape.indexesOk,
    FieldUse.zeroOk, FieldUse.indexOk]

theorem fcsel (fd fs1 fs2 : FReg) : Statement (.fcsel fd fs1 fs2) := by
  apply statement_of_wellFormed
  simp [Instr.wellFormed, Instr.fields, Fields.wellFormed, Fields.reject?, shapeOf, Shape.zerosOk, Shape.indexesOk,
    FieldUse.zeroOk, FieldUse.indexOk]

theorem fisneg (fs : FReg) : Statement (.fisneg fs) := by
  apply statement_of_wellFormed
  simp [Instr.wellFormed, Instr.fields, Fields.wellFormed, Fields.reject?, shapeOf, Shape.zerosOk, Shape.indexesOk,
    FieldUse.zeroOk, FieldUse.indexOk]

theorem fisnz (fs : FReg) : Statement (.fisnz fs) := by
  apply statement_of_wellFormed
  simp [Instr.wellFormed, Instr.fields, Fields.wellFormed, Fields.reject?, shapeOf, Shape.zerosOk, Shape.indexesOk,
    FieldUse.zeroOk, FieldUse.indexOk]

theorem fenc (bd : BReg) (fs : FReg) : Statement (.fenc bd fs) := by
  apply statement_of_wellFormed
  simp [Instr.wellFormed, Instr.fields, Fields.wellFormed, Fields.reject?, shapeOf, Shape.zerosOk, Shape.indexesOk,
    FieldUse.zeroOk, FieldUse.indexOk]

theorem fdec (fd : FReg) (bs : BReg) : Statement (.fdec fd bs) := by
  apply statement_of_wellFormed
  simp [Instr.wellFormed, Instr.fields, Fields.wellFormed, Fields.reject?, shapeOf, Shape.zerosOk, Shape.indexesOk,
    FieldUse.zeroOk, FieldUse.indexOk]

theorem pident (pd : PReg) : Statement (.pident pd) := by
  apply statement_of_wellFormed
  simp [Instr.wellFormed, Instr.fields, Fields.wellFormed, Fields.reject?, shapeOf, Shape.zerosOk, Shape.indexesOk,
    FieldUse.zeroOk, FieldUse.indexOk]

theorem pbase (pd : PReg) : Statement (.pbase pd) := by
  apply statement_of_wellFormed
  simp [Instr.wellFormed, Instr.fields, Fields.wellFormed, Fields.reject?, shapeOf, Shape.zerosOk, Shape.indexesOk,
    FieldUse.zeroOk, FieldUse.indexOk]

theorem pmov (pd ps : PReg) : Statement (.pmov pd ps) := by
  apply statement_of_wellFormed
  simp [Instr.wellFormed, Instr.fields, Fields.wellFormed, Fields.reject?, shapeOf, Shape.zerosOk, Shape.indexesOk,
    FieldUse.zeroOk, FieldUse.indexOk]

theorem pneg (pd ps : PReg) : Statement (.pneg pd ps) := by
  apply statement_of_wellFormed
  simp [Instr.wellFormed, Instr.fields, Fields.wellFormed, Fields.reject?, shapeOf, Shape.zerosOk, Shape.indexesOk,
    FieldUse.zeroOk, FieldUse.indexOk]

theorem padd (pd ps1 ps2 : PReg) : Statement (.padd pd ps1 ps2) := by
  apply statement_of_wellFormed
  simp [Instr.wellFormed, Instr.fields, Fields.wellFormed, Fields.reject?, shapeOf, Shape.zerosOk, Shape.indexesOk,
    FieldUse.zeroOk, FieldUse.indexOk]

theorem psub (pd ps1 ps2 : PReg) : Statement (.psub pd ps1 ps2) := by
  apply statement_of_wellFormed
  simp [Instr.wellFormed, Instr.fields, Fields.wellFormed, Fields.reject?, shapeOf, Shape.zerosOk, Shape.indexesOk,
    FieldUse.zeroOk, FieldUse.indexOk]

theorem pdbl (pd ps : PReg) : Statement (.pdbl pd ps) := by
  apply statement_of_wellFormed
  simp [Instr.wellFormed, Instr.fields, Fields.wellFormed, Fields.reject?, shapeOf, Shape.zerosOk, Shape.indexesOk,
    FieldUse.zeroOk, FieldUse.indexOk]

theorem pcvt (pd ps : PReg) (v : Variant) : Statement (.pcvt pd ps v) := by
  apply statement_of_wellFormed
  simp [Instr.wellFormed, Instr.fields, Fields.wellFormed, Fields.reject?, shapeOf, Shape.zerosOk, Shape.indexesOk,
    FieldUse.zeroOk, FieldUse.indexOk]
  have := code_lt v
  omega

theorem pgetc (fd : FReg) (ps : PReg) (k : Fin 4) : Statement (.pgetc fd ps k) := by
  apply statement_of_wellFormed
  simp [Instr.wellFormed, Instr.fields, Fields.wellFormed, Fields.reject?, shapeOf, Shape.zerosOk, Shape.indexesOk,
    FieldUse.zeroOk, FieldUse.indexOk]
  omega

theorem penc (bd : BReg) (ps : PReg) : Statement (.penc bd ps) := by
  apply statement_of_wellFormed
  simp [Instr.wellFormed, Instr.fields, Fields.wellFormed, Fields.reject?, shapeOf, Shape.zerosOk, Shape.indexesOk,
    FieldUse.zeroOk, FieldUse.indexOk]

theorem pdec (pd : PReg) (bs : BReg) : Statement (.pdec pd bs) := by
  apply statement_of_wellFormed
  simp [Instr.wellFormed, Instr.fields, Fields.wellFormed, Fields.reject?, shapeOf, Shape.zerosOk, Shape.indexesOk,
    FieldUse.zeroOk, FieldUse.indexOk]

theorem pdecnv (pd : PReg) (bs : BReg) : Statement (.pdecnv pd bs) := by
  apply statement_of_wellFormed
  simp [Instr.wellFormed, Instr.fields, Fields.wellFormed, Fields.reject?, shapeOf, Shape.zerosOk, Shape.indexesOk,
    FieldUse.zeroOk, FieldUse.indexOk]

theorem padde (pd ps1 ps2 : PReg) : Statement (.padde pd ps1 ps2) := by
  apply statement_of_wellFormed
  simp [Instr.wellFormed, Instr.fields, Fields.wellFormed, Fields.reject?, shapeOf, Shape.zerosOk, Shape.indexesOk,
    FieldUse.zeroOk, FieldUse.indexOk]

theorem smulb (pd : PReg) (bs : BReg) : Statement (.smulb pd bs) := by
  apply statement_of_wellFormed
  simp [Instr.wellFormed, Instr.fields, Fields.wellFormed, Fields.reject?, shapeOf, Shape.zerosOk, Shape.indexesOk,
    FieldUse.zeroOk, FieldUse.indexOk]

theorem smulv (pd ps : PReg) (bs : BReg) : Statement (.smulv pd ps bs) := by
  apply statement_of_wellFormed
  simp [Instr.wellFormed, Instr.fields, Fields.wellFormed, Fields.reject?, shapeOf, Shape.zerosOk, Shape.indexesOk,
    FieldUse.zeroOk, FieldUse.indexOk]

end Sys2Proof.Laws.Encoding
end

