-- ==== Sys2Proof/Laws/Table.lean ====
section
/-! SUPPORT. The listed fixed-base table is the table spec/42_scalar.md R173 defines by formula: every entry is the
Cached form, Z = 1, of `[(j+1) * 256^i]B` (`tableEntry_eq`). The steps from entry to entry and from row to row are
checked by multiplication, with the four doublings between two rows given by `doublings`. -/

set_option Elab.async false

namespace Sys2Proof.Laws

open Sys2Proof.Machine

/-- 1/2 mod p. -/
def half : Fp := 0x3ffffffffffffffffffffffffffffffffffffffffffffffffffffffffffffff7

/-- The affine point of a Cached representation with Z = 1. -/
def cachedPoint (k : Cached) : Affine := ⟨(k.ypx - k.ymx) * half, (k.ypx + k.ymx) * half⟩

/-- The affine point of a table entry. -/
def tablePoint (i j : ℕ) : Affine := cachedPoint (tableEntry i j)

/-- `c` is the sum of `a` and `b`, by the two products and without a division. -/
def addCheck (a b c : Affine) : Bool :=
  let k := curveD * a.x * b.x * a.y * b.y
  decide (c.x * (1 + k) = a.x * b.y + b.x * a.y) && decide (c.y * (1 - k) = a.y * b.y + a.x * b.x)

theorem eq_add_of_addCheck {a b c : Affine} (ha : a.OnCurve) (hb : b.OnCurve) (h : addCheck a b c = true) :
    c = a.add b := by
  have := fact_prime
  simp only [addCheck, Bool.and_eq_true, decide_eq_true_eq] at h
  rw [onCurve_iff] at ha hb
  obtain ⟨hp, hm⟩ := curve_complete _ _ _ _ ha hb
  have h1 := congrArg toZ h.1
  have h2 := congrArg toZ h.2
  simp only [toZ_mul, toZ_add, toZ_sub, toZ_one] at h1 h2
  apply affine_ext
  · rw [toZ_add_x, Edwards.addX, eq_div_iff hp]; exact h1
  · rw [toZ_add_y, Edwards.addY, eq_div_iff hm]; exact h2

/-- `[16 * 256^i]B, [32 * 256^i]B, [64 * 256^i]B, [128 * 256^i]B` for i = 0 .. 30. -/
def doublings : List (List Affine) :=
  [ [ ⟨0x23a4860627e53aeeb8e22b1508249c9109578d33e7bf237459b2596d6c28f9f8,
       0x709696f2827fc3729f980f2e3aad6e78b06a11ff8e079c27d87aab37c16727eb⟩
    , ⟨0x39cf6c6917421af98582561d0b39567de6033190f97852fc4fdd40f6977e4f26,
       0x4434a90ee12cce6b7ade93ecc0f88b78b41205e74c8c4038f92d394f3a06d269⟩
    , ⟨0x05fa64200bf829139cf290f9871d79a8b8e846fd6ad9d678f1517a0fb03ca40b,
       0x3d199eeaf926002872f486796fa8aa4c99f1125e6e0d196afbd695af17da0926⟩
    , ⟨0x379dbeb1a97b5f082402eabf1ad28bb78a837aa426237a405da2495bf0cfdd87,
       0x28eb9fe001ce99d063f7995348559bfc233261c134094521fda0e7ee084b86fc⟩ ]
  , [ ⟨0x7d13c0248b891b47eb524f2692008e2f97b199bac426cb5902b9003a29ded6ea,
       0x59a976ab2c01a81a91f1a56c75ccc77a9e1e9e878e9fe9c3952080a6805b20d5⟩
    , ⟨0x17d5a9ff7f338d8ee53c26531f9a5d4ad2718234b5d46a1435aa161031b1c9de,
       0x73022287d3b73f6c43c3f9071cf0a87aac83dabd44efad1de010d564a4f6af89⟩
    , ⟨0x07a8bc68bf5f3ed3bed79c11bf2d6b20cb84442dfe4ae185b0c2dabc38e74b8a,
       0x7249d7c47afd427018b32d20a2a81307bddc3e039574c80329aa786a22288901⟩
    , ⟨0x5b4fd9f4a9a79b1f34a4c426c1a467d36560338b1a5457e83254935c2b32ff02,
       0x40ebd1230468fbf85a49aa47278ec1375a3cf9c2ecc5bbdf685b265433b08d46⟩ ]
  , [ ⟨0x06b349eebfed4dad4a805b63a6ed2231a565cda752d9477ff427dd9a8c9ab5ed,
       0x07a09289ff3e1f9aab68aa374c48df65f550c2323607b97744dee990608b64f8⟩
    , ⟨0x482a4cdf57d9eadaab1c92b8edd4d15f66a39c16b2ebaaf9ec314ac0199c4f7d,
       0x7391de4381c2f7a80b3c5fc6145192983f115fa525e4fd6abd513b116e4eb04b⟩
    , ⟨0x3bad86defe0d244dcc4b246c137dcc68bf6b733d1fff688f33431f2a339f8f3c,
       0x2de3cdf2fa86ba8c2b899f9fc04b8d5384145c3f68ea9b6ee05373dc01815179⟩
    , ⟨0x45afc85dc571ed1bd5e8115a9622d44627cf19fc4a8626e7b754b005cb75be54,
       0x6c0c8abfa60bfc771e39a18f57b8142f7adbcf220b81ee2339809e4957777b40⟩ ]
  , [ ⟨0x1e45a60140a3b2dee9b8dc6ff307154a1b410bcd38e0e38fb10b2f6da1afbe2b,
       0x0e730da473dffd60d2f3241a85e68acb47d26e5043ad047d893f072c8dda0a76⟩
    , ⟨0x61708161cb4660ff22c3c1eaafb1414244579864b07e73fb9bcd90aabec9935d,
       0x38d6936d12e8157c0621bd2d8fdf95a1f84987ee724e0c98f5c4cd21feb9820d⟩
    , ⟨0x48f451397792915909604c632c838021641749a67fb8e91301427defd951f791,
       0x315385d3bd5a22b69068de89e52a3126525be7da886d693e99ff2f088322d560⟩
    , ⟨0x7956a04df862178ee4c705ffbd30f9dcbccdfc7abe362f2c1da24b3cf9dcced8,
       0x5eeac17f2e772f551e761978b395b6ddea37a16aa33cff34a30a8453baf6e782⟩ ]
  , [ ⟨0x2b6b892ae94b454b2c2d92bb947fc4d506d173d281779c2c153c001ded42d3d0,
       0x7f1cf64e0e180fc4d6e12c1b5c5285f376e979616a52c94a0dea4d48c5880cd2⟩
    , ⟨0x1b9175b7fc19a618d5848c5761c2b760529e3eaaac087b51112b1fcb422e04b4,
       0x1730a59fff4717e258cc853dece7c5f70ecb52cc35320a53cc3838c844ca68e8⟩
    , ⟨0x01371cf67fe47f8ef91246ae0485874d601e31984d854224569ac29e56a6ee87,
       0x71cad7d8350661ce798e332a98ee5b62f8431fd9ac5a4a48856ce9c4c5b64c73⟩
    , ⟨0x63bd671eca1e6accd0f980845b163ca4e927d2a74d198e78cccd8fcaa6aed372,
       0x0460cc32f5d27a15f4294faa20a99112392cdbdc8515e9caa1ff4887d22a6e7b⟩ ]
  , [ ⟨0x52ee53b981dfbc41ddaa5ddc2754c4175f4811aa45f8e2b19a425657c238a83e,
       0x7eb0a1be3400dec87b388cad51613957643cdf0595b891cc6f925fb36da7f1c3⟩
    , ⟨0x501fe138924e05cc1a05129d241e6b5e9d46cd8b0bed38eb42ee20678a1d2425,
       0x2f8022ecede0189c215882ca856dae0f7b4daf6675181a558ebd11e6911cee4e⟩
    , ⟨0x2d8294fd94996032b73b4f09a0ff645ce8db39db5463f0fc57156a1d390a3b68,
       0x3a8a6faa67c6dd905a4fdeb95ac127c9fde3ac017c847ceadb2c55f1445af624⟩
    , ⟨0x56857d02674276af0099d63b04a39544a23b841cb2ef18688ba9500361e4da1d,
       0x0b543a6720e318d2647915bcd619efcdedcf7fed0657be45d27db284290e72ce⟩ ]
  , [ ⟨0x006b2bd5d00fab38ceca21a27d6aaec82626b14b555d859527718f8ca404eba4,
       0x727340c27a15f6ab3d80547f0827c56ab1ba33bc30d1ef3909ea9a3af10c67e5⟩
    , ⟨0x1f4e8938dcf3a6d5907d88572bfb36a8191aa9d05bae8f68d3f120ea165b2bd8,
       0x5a8b0c6f649f8e191aeeca653774a6ddfc8cf8ae3d4d232e2148433b9bda19cc⟩
    , ⟨0x08fe8df51b345989553484e20f600c2e46f4ed256f3c8dcc1615b872f0c2b925,
       0x2738e06810f4cec5d894c91432edeab5ba632e54d06f494b751bba44bc93abf8⟩
    , ⟨0x1a2403cc5ef2ad62b4f09afac79a48a5ba8ef74f3321b65a716164d49b141c74,
       0x7779fbcd8be50c9b021180ac97a544ad0c21cd1f3bd263ce5903b9afe4fd76f5⟩ ]
  , [ ⟨0x57426aefc21be9ccf162e23d25ac3002ba8534351e65613f870f690f2fd46cf5,
       0x6b45b002fb4e8a6f59a6ffb006ed71f75434217333b266325204c7d1ac2e1f34⟩
    , ⟨0x205aa3463e7e41af60f5cff4853fbd6f748aa1b132fe5308807d22c5030b48f5,
       0x320b08e8ec6153e2be9955058bd26993bf50353e040c556ef8976663448735aa⟩
    , ⟨0x592c8b8843ca1f7d9ee692d5e29bc1612b0a98bea402c5c2e1e8253b65feea37,
       0x42a352d8dc52fef9017cbe617cdbee3aaefed1935aa62f8679af6f2a1d00b5e0⟩
    , ⟨0x041c030fbca90151ce0d0064a815e03825ed77a4ac634604ac7137bd3713af22,
       0x72467625ee43fb7ac67dc71c655e5c16e4e97c2a3d4445e7e9b33fcf0780f989⟩ ]
  , [ ⟨0x71ac99647b61b9eca6f0c23432a518f738aee708d5932d4ef0f172240250a226,
       0x3a96c2c028ebe5f48913be30147e41bc5e1cab9595d5404138a9aa1b5574cf25⟩
    , ⟨0x221b138a1bbb6548d2ef719bbaee436114e7cb6b3225dfb94c327667ec45772b,
       0x7951b295fab7fbffa46c08f6979bb32060974fb037bf5998d0ba5a38180cad84⟩
    , ⟨0x1c1b0d95db6a057eb34f28beeda9f6bbb5315285de2804d15c3b186bdb3f5c28,
       0x57bd5de4e0056cbb4d98abef9d1e0ed6cab1628ac08e36073e31d00a9ac3c5d5⟩
    , ⟨0x4f846fad2eefb8c948a8bd3a87d8b4dfa0a0ab643e724ebb1c91437c567c9f47,
       0x0a2640ccde505da1aa9227bacaca13d49a67a199f0e16aa9f86c2a7e1bf02d2d⟩ ]
  , [ ⟨0x22e2c039067920c42980dcb3a905fc91601c2b34e819ce1532ada4a5fc39d5cc,
       0x631cf9945a09bf26d7e595b3f8e3390696870512820df63c5418577089e1a8bb⟩
    , ⟨0x1a62e85ba4a14a3f24f9dca8529ca842f5c7f18a3f429886d6b13673649ad53d,
       0x1f6d17d9a1e5c5d8cbb98100757e5183551d00091183e6a5e1eb0dd514c8bdc5⟩
    , ⟨0x36b566a2c0f8e36e760992eb83d509238731939dd9dd0d19513f52e1e9e4f9ea,
       0x1bde4ad0433ee4e19e734c558978dd945ed244e38414387a43e70232ed39bb3a⟩
    , ⟨0x0fc8f365bb4b04e275d358bd3c277745c565eedff84179ee72cbc5a3e38fe7b2,
       0x16f91c8191db1e7817455b6a395de2b0f4396697920ba0cd4874e2b534937b24⟩ ]
  , [ ⟨0x3f748617ca63ab3e44c6e34f63e7328ea56a2a146da34368a57dca181254fe02,
       0x0fed89e6420fc47b3938a2891ba9acee4cbb2899ee4e9ca15a13dc527dc1641e⟩
    , ⟨0x08f050e6e4bbb5e43b756c82a0ffd60723f78c3fdfb49c50378a1083808c3cf3,
       0x38900048f0768542b4b9354736b6880632a94601a17a15adf4f233924875ee62⟩
    , ⟨0x2583374456f20c85e78e820263e1507524897a5232050bd0ebfc357d04b900bd,
       0x62d1c4fffd5ac72c7e7dd52c2bc9ea4077ebb7032a39291e0212da60cbcea18f⟩
    , ⟨0x05b4079d8c7a5a10bb68984233b2726bd95196ae2b50e6052441fc4e5b98881d,
       0x2329432253e9aa57901c1369e57e54e4a363d2cfe69069108c833fa8d79f612f⟩ ]
  , [ ⟨0x1e34443347f9e627b3531157faab6eaca1bc3114df4a1423cc12bf8417b5d622,
       0x295955a5ed061eca7f87b9485666ba9489ec20a9c484224dc920350bb4a6fc79⟩
    , ⟨0x4cab819c06b2f861b4be5b06a918bc314bf29f56cff389ae2ba8abd5f1f5e156,
       0x1f10fb18bd5ecfe633b53936f70ce8e58b6a864e679297770f2b38160176681f⟩
    , ⟨0x7c686b90cf6ff6a3a59cc7d8a5e00a2c9b2204decf83f96bb56b53ef630df083,
       0x000f1deab1d3a4a3d2528d9103d118fafda873ccf0a518c45821d51a7fd71533⟩
    , ⟨0x0aecf4e5a0c4c4da709921a44dca45965f89a3215bb5445cf72dddf4ade53a2c,
       0x19304020c00e6169712d6050734bf5c51bd0af80b5ba4a6a0ba008e965216807⟩ ]
  , [ ⟨0x3faa2a093a19a02424f65a10955101f4dc015c43b2dfce8e001507abd741b845,
       0x7a1de10dacfda389ca663b15574bdc8ae8c5b6e7cee647e77b11ddbfc6eb8edc⟩
    , ⟨0x30f9cd3076c51c96a9baeda10ec893105d920f022947716064e32717aee8e3c5,
       0x2caedfaa420120c6711921684f9f5a2b8079045fbf3a4efd7e4fa7bc8cbdb095⟩
    , ⟨0x6070951e96e618be7d750fa819593ecbfe9c26972471ebed72c093714b7e6e90,
       0x7bb8b8086b2c8f273841de642871dc22c7adb51944d64304c0fe5f4c1d3e6689⟩
    , ⟨0x1ec0eb040164dd81f57ebc3a26c3e8606154303a1e5de3af27b1afd99d27703d,
       0x3df62c38b3077c694268ed7aae9a3329999e190eb81f07326e5cc3a1d1a42cda⟩ ]
  , [ ⟨0x49761c57ce3c8c4f1435d495903e2f536f3be3712e76af8d0b5a8b7d1ebc8fac,
       0x3225035e1065094ef32d7f3e7a6f8ff2748025f96e0c0b44eb35576b61e150a8⟩
    , ⟨0x654b39f4650804bfb7c76a3d254377050002240e2f794f8de21de5640fdc60a9,
       0x50ce7be2f1011218849a34ce62654414a8dcaea8b4db9b45dce3b76a6b121996⟩
    , ⟨0x091605b338ea1bd98bdfae06ba25bd540525a3b02efa65df30de5c6e8c637d0f,
       0x1df405521e9a2232baf654aa3d2f66bdd6d57fd5bac96f5aa5f8ad2864bf8cc7⟩
    , ⟨0x4606fdec56d46970938a8f9fa5f24624f5b9c6f488b72cb1fc87e4feebbb1faa,
       0x0f00d9e6656d8243e0350fa5b89beefa58e9af955ed650a6d90cce344ecf664e⟩ ]
  , [ ⟨0x6bda13918dcbaf8529d6326ae7a9c278b72417c2188c5ea4f062fc50639295fb,
       0x2c3fa803b162ee887d0d97a6734866f992f846625f314117075da54bb6c20a36⟩
    , ⟨0x19af956d2b5b4ac28b0c67889f19ad66a40f4bca1625e2007963e8a98a70b14a,
       0x5e228bb5fbae687754307287833c3245a1ab34684a5a69174f72b460ccb69d8b⟩
    , ⟨0x45bf322997c4469aac6d1e4251fb3490e60e7c0cd5cdd6f5cfb9bbc53587b9f1,
       0x529d884884075753fd9a2f9ba021ff427fea7b9773f0d4885da5edc024c69e66⟩
    , ⟨0x39632228d7d1471800e549128f91a680c9a64e37ae27d919a2609ce21522c607,
       0x6f59557cabbd86e8e4d546e2aae6ac26b27b671ebd049539991e9ef27e00e2e8⟩ ]
  , [ ⟨0x0b2cea0029ee963c0034b61bf19e384435f14554a7d297b5144838c38e375586,
       0x47ea95da28d39aaade5edb8ed941c687603cfdd1508776e96d6683199e99daea⟩
    , ⟨0x06e3d157d1cd96bb4ed4cb069497e6041334d698b1640a59a44a45cde613aabd,
       0x72f5ce3c9ce0c93d9339b91978f1d9c688b56b3a3850627c7d7f93c427456c7a⟩
    , ⟨0x1f13202c95083f854583ff4cda13ef4b1e745a880460850e59e22c567d23ea24,
       0x66336d356c381b7ef21109e7fdfd7ffa0085087eb55c4778ad42025c90275f48⟩
    , ⟨0x1d4e70e7fa35c13ec61efe8d7b8ae9e621144c1eb2454c350920e4ac81360393,
       0x7b2807a91ce09ff20a518d85be729e118ae448b51763e880abd15795ddc22e61⟩ ]
  , [ ⟨0x53e2a4ed1bbb48bd016c524a02f797654cfc969849f867681da94e341f377534,
       0x5a2334fdda642732a3c9520ce06581aa7f0f082882554c37b8d390a25a9bd559⟩
    , ⟨0x2618676f8fb18ef8c0ff9e057c9cca37104cbae666398a1fc8237bb34d0cb0b5,
       0x2aa05b60a232ec56c8f2f51b1eb6cb7ebb2415fc4b1e8ba94ea41a235413414b⟩
    , ⟨0x566dcd766740cb27bccff752ad6b8fd3c2f7bf3849c1131a4ae7323ebc4f6c0a,
       0x51e9f19fc00f3d398f7539196f459ef37e0ab795233ade63b5f29bbead27b0e5⟩
    , ⟨0x2151b330947c9f7b22fb8d7258ba6d9cd59ce0bbccb51a3e121194862414aa88,
       0x2a01507ee46f38350a3dfc49fba49adc907025fcc96b237c031ed0aff23d74f6⟩ ]
  , [ ⟨0x78877b5d8777410997dacaeea59400fc9db4421fac02c4282301c67d35fb7ffe,
       0x0341b46c328333e4484ce8607619014d41775c408c88856d2f9e19812d90fbf5⟩
    , ⟨0x1787c129a60520114b3687d43367dab6a3ba1d1c7bca7edfd2f46e4f09c210ff,
       0x0ba4e0f55131c2b6deb4a1fa4b5d6a2b47e28908fe7dcafc1ba738da2fca96f6⟩
    , ⟨0x01f54318884a9a29932eb2d5aa126ed3a94fbeb7cb238538be572b8e04c6e55c,
       0x0b704f0aa8dd40ec8405ef01634d0dc797d01a872fae337ebd8d2159a2dbfc50⟩
    , ⟨0x2fcd57c067c348aee6eabd76e66d27de79846089d1e0916906ad03e940e9263f,
       0x1a3da7acfabf171a0b078f4d602a67bcf8c74dfb7a284b553d86bcc7b9dcc17f⟩ ]
  , [ ⟨0x0f72556998b0044799f0fd03210ded3d984e3843bbaf3c1d5d692bc94d43c4e7,
       0x16c19c5037c103d447caef4efe6bd81a490e7c668f6870f1b080863b5315df5e⟩
    , ⟨0x25aea0bc0827815b535d8c110e694b9247811ff43682e72a2cea9ef5e347371b,
       0x5ddcc7dccc9e41754112bbfd9b9da05d50e2138b624dac59d200421105a13269⟩
    , ⟨0x4eecfca39170c07de4669bae23b0068d294ed225ff7949285e8270460638e3d9,
       0x5e9e7c4381074bea73e24638aaac0508e76a81b70e0d5c14fb1ef6306a371262⟩
    , ⟨0x2884187fa61140983062669218c62a3017be9d32437760281f9b762e4f21f9fc,
       0x3200426867df5f3d9f57fd086cc32a17850b08eac3492dca3ca1768af4d3ab3f⟩ ]
  , [ ⟨0x31a75b21cb532622a7caf9e29e652ac4e47b1450edf6655acaf3797b55a7ca46,
       0x77006e7cf104982f8865081a2ff8a6911546755e31c3586353b0bd0826c5d790⟩
    , ⟨0x507fddb828993775917eb8d147c94b420e54c787736163ee92f14ef609612181,
       0x5ffa5d8998f8df1974f1133fc878d7bb58987b3ace819df0a09fd65dbec08f89⟩
    , ⟨0x247ab53368a2d4aff8eb158b291ea4796942c0ae4364ba270e1259e237612aa3,
       0x33cbed49442e2eed384d45782a002d3dea88062b42f823b001ecab1bdd33192c⟩
    , ⟨0x7300f956c862bb5c5bcedbef880061a0adef30aba72e901311f8918f41e868a0,
       0x116d410aa365e041a43c071511113f1a4e09cc70e39f9e245828a32d82c1603f⟩ ]
  , [ ⟨0x0a2818f5f5d8937800c30ac6b847db2cdef655b864126302249144a5a15b205a,
       0x187c76a49af10851bb049ba97c0fbbb14b2621522a4e8d9670ea46e56c9a1bd6⟩
    , ⟨0x389973be3632bbbdac59f537aa63f28abf7a33b915d53682a9ebd7d040f794fa,
       0x4d6bb19304a47533a460358e9f3eaef4b7984f8e99daf4d2ca993dd87adab32c⟩
    , ⟨0x68c0bfb003eeb945d29ec91ba57d6462c36b42a8fdefa5e7b99d7b97cda89d97,
       0x4b0ad6be2fccb3042e2189c9f3edac9f6279599756876d246ba1d3f62c84b7ed⟩
    , ⟨0x3710538d7cd7971d68f19272dcfe0d7a577b7e889977526e62704dfcbe6b8c22,
       0x7d10827db74ae0dc09323717542a2deaca18ab2a48a8e245e5a827ca02778853⟩ ]
  , [ ⟨0x472e960dd122a534f52377235350549df4a1dd7a08cfc580bff5fb4b0a70aa7b,
       0x10585d04fc529fef4c0c0776154fc7ebbaedbae8a99937e47598d0578932b7cc⟩
    , ⟨0x3734c7d50aa73403b92723a944d6c90cec86c737774dbc4418a1a6693dccc58b,
       0x416c8b45805ea84fa8247cfc6a0b0d0fcdc566e2d811adff2899f9ee663e7ef9⟩
    , ⟨0x3c3c51d3a301c63868a041b4210b71c3675effc0210360dbeaf2778df7ec1eef,
       0x6c161ec4de54d51b1a839d13f50e0274bd11c93f722ec44ab21342ef4bd6f892⟩
    , ⟨0x2a4ebd1072842b788ea22727c676cce2bdb6faac56c69c28c3e694aa63e45227,
       0x49b857654a0e51927bcbbd26fd2dd718c3c8d1d196a56ec950806104ef23a7ea⟩ ]
  , [ ⟨0x2401d311a3abfd2583f1c6aa519c1f18ff730a0abf730ddcc9c9739b04d8a85e,
       0x653224f3488cae1ae19a414a9932035a2bf2c46803b5532bbb645e62387ee34d⟩
    , ⟨0x72964d278e0326e84801f12bfb0c0cb1edbf8bedf273e5b2b3f4ea8c3aaddde8,
       0x0eb4ace1c6b7220c4211bb023c76443304c2263ba1d49cf27c4d26c9603b09c8⟩
    , ⟨0x5aa06a8b5ddb350d8c58306257ecbf219d0070caa4f986c78fdf8e42fa9b8ed2,
       0x7920277cec6d1e37a5f267d8fce232dfe38bf858973b895f2611dd200d7c58c1⟩
    , ⟨0x0ebb89efa79e3b56b75663d950362c441440ce1425792cf196234595fac0e9d0,
       0x0e5f7b80005248f80da7d738df4c11a70f30018d74e871780a1c82cc0adc7fce⟩ ]
  , [ ⟨0x0fb3f87c2c6c89c65b74299b77f3736546a8b9e41b19197476bff27354e1c128,
       0x1034d42c15a2bfe3e682fad49dbc2812caadf0c584bc30b51625b85d74e9d5f7⟩
    , ⟨0x7b6a55657786383d359c5b5f2f6cc814790f8527d9d67f6c67a5310eba46b161,
       0x0cb7acea0eac739a61d526f6eddb857114a32d8f09995826f1431b60663ab0d3⟩
    , ⟨0x5ad25870b2c161c671b014f548bfd24114e54bac5c675f43e79f100e17e5f45e,
       0x65c775edcb82b0b26040f9f5ed43f8ed61ba00427fc92b50bddc94920716ba2d⟩
    , ⟨0x3f18362ff22f583b16d40da2f5e67645ef65016e5183a44475b3ae5c3056b6d0,
       0x5cfc7a0f0d2fec43237b88efc4fb7e9f0a95b6352bd4caa918c58c1e9be02ffd⟩ ]
  , [ ⟨0x469d0960dbd0ef9c91c4597ccf7c209549b187ff63bd378b7dac577198d74a4d,
       0x0b5f21c7f86832241f2157c288bdc9394f83f8d57457f6d9f6b345e4909478cb⟩
    , ⟨0x5911ade9998930a4ceb0b66eb93d7e9e4d94ca0a3ae3f095c5c4ffa156776792,
       0x063ad2432a173e9df4056a370db21b2625d68ad21c0030bba5b75f6fa19548f6⟩
    , ⟨0x10b304ff67577ecb1c73a3e405d39a64b2d4f9dd4cb4bd16a9f3729ad1939932,
       0x13b7faa0f91cc1419bb0e7cccd85e369d9ec65aaa934afb423616dd0ada44bb9⟩
    , ⟨0x1b795d9be8dec6dd3617f3f9bc33c580debbc3cc19064f515209d00c3c88fd04,
       0x6c87f61b675c50c01e862a53cfba384baefb8f95079b71087950ad5751be0a65⟩ ]
  , [ ⟨0x11cd80e1fdcbc565efed81d17f3f54643ffeed1cff38f3825e115adbd82759f1,
       0x43f11943f7ef3fa68b980fee45e98134f1df22263b2d14419d61ffe62822dbe0⟩
    , ⟨0x068c33d8f33219a980ef7a4a10edcd58b0d2314d3c8ce301b6c0de50a100f3ee,
       0x1032a93593881da4de11eedf679416b57135344cf9061c393b12d830ff4f7dcb⟩
    , ⟨0x1eac17c83ec7972fe82321bf2c4e6aa73565be5cef720aa9930c6fa3f0b1c087,
       0x0419a160079a825b1b3c51e57c6e5a257a86757c7a97bdd6dc1ecc40e521ef7b⟩
    , ⟨0x4ee45ad6672f7b5dce99d4f64c57742640feb26ae734fef8493ae38faba68896,
       0x7041a7fe4facb6c6904101f856fbff5b2bb15c7dc602a4936af62555bdb3825c⟩ ]
  , [ ⟨0x0ba774bb605dd804cae6887e81f6bd2c59e024fac8bf5f5c48a841a037c28398,
       0x54ba013ad2d04dcdfb5a151b7347ee9a10067ddd0a3907e9bc337a77bf911321⟩
    , ⟨0x6e6b14df76458c45466bef23b9377cf147c97c495e8207a0436a200b4a39d548,
       0x30f3b35dc952ba9d6b5fde2d131ab9b5b403f2583a7c2d8ada37764c29cac942⟩
    , ⟨0x496490af4080feeb8e38f78e769308b124edc07985b1ef7148d7620c6bfe6f4c,
       0x7f6410727b65cafa07e53ab1e775ef0408cd5f12b94bdb4e533c4498c1da884a⟩
    , ⟨0x075bf0ea1fb606d05dd67e0f313809ac9792dc903159d032b05c96db7be967e0,
       0x43ba373488c317aad659043f9bca4c85d9b081903e7767143522416bdec79f81⟩ ]
  , [ ⟨0x25ed76d78c87c3bd64b4331902c5a853734283e25f19f320295667b80a340d35,
       0x179b5f92f545c7b326b3a63fb0b32a0f52b4159988436d5af50c1d0d76373947⟩
    , ⟨0x71880463417e760ecb72e31789bdb017139aaf83eaf20fc20e423bafa442b92c,
       0x7be598f9de5bd5dc434f938efd89e30d39e02cf1bf657054ee9fdd5786387875⟩
    , ⟨0x76db1d03f26fe3e7dd73951d7a58abd8b6c1779e5c6f129463f2b2df11653be7,
       0x24b91ba65c06f1df0b18d1030726681714e1ebbd27bea55a5abc1b522c4e06ae⟩
    , ⟨0x3d09f11b74381d32b6407d2f5f3305c5b6ecc5ed60b48431878c480e138066c5,
       0x45f4a22ff69fc1dacbf100959bab8026af793c58551855753634f88dbc8269d4⟩ ]
  , [ ⟨0x5d9324f56975477d5945599eeeccec67708c996cd3f3f2818bf2591507e3502a,
       0x10985a3cfd573205281aec24e2c8b41f5cd8cdfc9d7be34675cf306bbe1b4f6a⟩
    , ⟨0x3c08b09976fa5b99270e861a71c0ab1fe4d91e80e522ced3e19ac2d830f7dba3,
       0x30a2ba28dfd74083de7aa9ecb4443a3773366abd33d1d1eea65d6a1b85d2932a⟩
    , ⟨0x27d83b61339890b9c8fbd00cb8657e01e08fe7e02cf1cc0c991f3e184647ebb2,
       0x2aa089af71e21dc6264ed78eebeecab46c08c7e4c593c801ab744b503a72bea0⟩
    , ⟨0x4676d3812cc6b66e1f8c510f446ac562ff8a52086d52067482faa8dbdee40b98,
       0x7d89e2b7744c57b1051450a0457fa0eb2a95c1bf8ed6bdf68f1aa7802e7429f4⟩ ]
  , [ ⟨0x2596e5b3cf5494e60d2a750d03c66abc2e0183af53620b893f9cf9fc3b76dc26,
       0x68a0a7ac9a0cc093884a6b84f45a2cde595194e0f48dbd566fa78a3174b182fe⟩
    , ⟨0x249651cc143249f875c53d5aac9cd3b818989387875c08c7ad104723c7d60d25,
       0x028fdf17c15bb6b0c4dd06abd210155b2bdeca64a5f02a6934f00437f05d9c65⟩
    , ⟨0x0555439a0891500e49a25ccc1dc98fb600ad0f84600494322c44315cbf3d59bd,
       0x5835c99533f44bcefffd61bc8926af99af9d0f669e428593ec19129bdf55935d⟩
    , ⟨0x0dec3676055d5dafe7544edd68b7a80cda0443b311638b16a8aad05972aeb417,
       0x48fa8dc3a82049989f4cdca7c6545513f02906fbc4c37d5b7457553832827c6d⟩ ]
  , [ ⟨0x59233a3346f61135f431f96cf0197e24ad38240b222c010a6ce538cf4c24347b,
       0x3cce55908611d2b93f221613f09cfc4dbcd2e2b609233eea5439ad1908a10b20⟩
    , ⟨0x4b82eba78af08da395d2b48bf17f55f984d7991277777e29ec8e3c4afdbfea1a,
       0x1437579645925f5d241c94c1c64c55c39f64033ff8234441e00adef63af4282c⟩
    , ⟨0x1a2cd99d3d94ed5a186f69c4ebb16fb282a589f9237585a55ba076b96690cdc1,
       0x4044babe0b4de497049f1a9e995ac6e6ef0bedd2e822b0f8e037b70673e6b035⟩
    , ⟨0x24497c51a639670f653076aa14ee826a4241d6b20a89886f54bb1f5f919656c1,
       0x3b80f82901f17808a3d7a986367410548092cb5120db4670d3750f11d178a335⟩ ] ]

/-- The points from `[8 * 256^i]B` to `[256^(i+1)]B`, each the double of the one before. -/
def rowPath (i : ℕ) : List Affine := tablePoint i 7 :: doublings.getD i [] ++ [tablePoint (i + 1) 0]

/-- Each point of the list is the double of the one before. -/
def doublesCheck : List Affine → Bool
  | a :: b :: l => addCheck a a b && doublesCheck (b :: l)
  | _ => true

theorem doublesCheck_last {h : List Affine} : ∀ {a : Affine}, a.OnCurve → doublesCheck (a :: h) = true →
    (a :: h).getLast (List.cons_ne_nil a h) = Affine.smul (2 ^ h.length) a := by
  induction h with
  | nil => intro a _ _; exact (smul_one a).symm
  | cons b l ih =>
    intro a ha hc
    simp only [doublesCheck, Bool.and_eq_true] at hc
    have hb : b = a.add a := eq_add_of_addCheck ha ha hc.1
    have hbc : b.OnCurve := hb ▸ onCurve_add ha ha
    rw [List.getLast_cons (List.cons_ne_nil b l), ih hbc hc.2, List.length_cons, pow_succ, smul_mul ha]
    rw [hb, ← smul_one a, ← smul_two_mul ha, smul_one a]

theorem entries_check : ∀ i < 32, ∀ j < 8, tableEntry i j = Cached.ofAffine (tablePoint i j) := by decide +kernel

theorem columns_check : ∀ i < 32, ∀ j < 7, addCheck (tablePoint i j) (tablePoint i 0) (tablePoint i (j + 1)) = true := by
  decide +kernel

theorem rows_check : ∀ i < 31, doublesCheck (rowPath i) = true ∧ (rowPath i).length = 6 := by decide +kernel

theorem tablePoint_first : tablePoint 0 0 = Affine.base := by decide +kernel

/-- Along a row: `[j+1]` times its first point. -/
theorem tablePoint_column {i : ℕ} (hi : i < 32) (h0 : (tablePoint i 0).OnCurve) :
    ∀ j, j < 8 → tablePoint i j = Affine.smul (j + 1) (tablePoint i 0)
  | 0, _ => (smul_one _).symm
  | j + 1, hj => by
    have ih := tablePoint_column hi h0 j (by omega)
    have hj' : (tablePoint i j).OnCurve := ih ▸ onCurve_smul h0 _
    rw [eq_add_of_addCheck hj' h0 (columns_check i hi j (by omega)), smul_succ, ← ih]

/-- From row to row: 256 times. -/
theorem tablePoint_row {i : ℕ} (hi : i < 31) (h0 : (tablePoint i 0).OnCurve) :
    tablePoint (i + 1) 0 = Affine.smul 256 (tablePoint i 0) := by
  obtain ⟨hc, hl⟩ := rows_check i hi
  have h7 := tablePoint_column (by omega : i < 32) h0 7 (by omega)
  have h7c : (tablePoint i 7).OnCurve := h7 ▸ onCurve_smul h0 _
  have key : (tablePoint i 7 :: (doublings.getD i [] ++ [tablePoint (i + 1) 0])).getLast (List.cons_ne_nil _ _) =
      Affine.smul (2 ^ (doublings.getD i [] ++ [tablePoint (i + 1) 0]).length) (tablePoint i 7) :=
    doublesCheck_last h7c hc
  have e : (doublings.getD i [] ++ [tablePoint (i + 1) 0]).length = 5 := by
    have : (rowPath i).length = (doublings.getD i [] ++ [tablePoint (i + 1) 0]).length + 1 := rfl
    omega
  rw [e, h7, ← smul_mul h0] at key
  rw [← show (2 ^ 5 * (7 + 1) : ℕ) = 256 by norm_num, ← key]
  simp

/-- The first entry of row i is `[256^i]B`. -/
theorem tablePoint_zero : ∀ i, i < 32 → tablePoint i 0 = Affine.smul (256 ^ i) Affine.base
  | 0, _ => by rw [pow_zero, smul_one, tablePoint_first]
  | i + 1, hi => by
    have ih := tablePoint_zero i (by omega)
    have h0 : (tablePoint i 0).OnCurve := ih ▸ onCurve_smul onCurve_base _
    rw [tablePoint_row (by omega) h0, ih, ← smul_mul onCurve_base, pow_succ, Nat.mul_comm]

/-- `TABLE[i][j]` is the Cached representation with Z = 1 of `[(j+1) * 256^i]B` (R173). -/
theorem tableEntry_eq {i j : ℕ} (hi : i < 32) (hj : j < 8) :
    tableEntry i j = Cached.ofAffine (Affine.smul ((j + 1) * 256 ^ i) Affine.base) := by
  have h0 := tablePoint_zero i hi
  have hc : (tablePoint i 0).OnCurve := h0 ▸ onCurve_smul onCurve_base _
  rw [entries_check i hi j hj, tablePoint_column hi hc j hj, h0, ← smul_mul onCurve_base]

end Sys2Proof.Laws
end

