-- ==== Sys2Proof/Machine/Timing.lean ====
section
/-! DEFINITION. What the spec says of time: the timing class of each command (spec/30_encoding.md R74,
spec/70_reset_and_hazards.md R262) and the operation counts of R263. No rule of the machine depends on time and
the model has no clock (R262); these are facts about the commands, used by no meaning. -/

namespace Sys2Proof.Machine

/-- Constant-time or variable-time (R262). -/
inductive TimingClass
  | ct
  | vt
  deriving DecidableEq, Repr

/-- The class column of R74. -/
def timingClass : Instr → TimingClass
  | .nop => .ct
  | .wipe => .ct
  | .cset _ => .ct
  | .bldl _ => .ct
  | .fzero _ => .ct
  | .fone _ => .ct
  | .fmov _ _ => .ct
  | .fadd _ _ _ => .ct
  | .fsub _ _ _ => .ct
  | .fneg _ _ => .ct
  | .fmul _ _ _ => .ct
  | .fsq _ _ => .ct
  | .fsq2 _ _ => .ct
  | .finv _ _ => .ct
  | .fcneg _ _ => .ct
  | .fcsel _ _ _ => .ct
  | .fisneg _ => .ct
  | .fisnz _ => .ct
  | .fenc _ _ => .ct
  | .fdec _ _ => .ct
  | .pident _ => .ct
  | .pbase _ => .ct
  | .pmov _ _ => .ct
  | .pneg _ _ => .ct
  | .padd _ _ _ => .ct
  | .psub _ _ _ => .ct
  | .pdbl _ _ => .ct
  | .pcvt _ _ _ => .ct
  | .pgetc _ _ _ => .ct
  | .penc _ _ => .ct
  | .pdec _ _ => .ct
  | .pdecnv _ _ => .vt
  | .padde _ _ _ => .ct
  | .smulb _ _ => .ct
  | .smulv _ _ _ => .vt

/-- Field multiplications (M) and squarings (S) of a command (R263). -/
structure OpCount where
  muls : Nat
  squarings : Nat
  deriving DecidableEq, Repr

/-- The counts of `PCVT` by the pair converted (R138, R263). -/
def convertCount : Point → Variant → OpCount
  | .completed _, .extended => ⟨4, 0⟩
  | .completed _, .projective => ⟨3, 0⟩
  | .extended _, .cached => ⟨1, 0⟩
  | _, _ => ⟨0, 0⟩

/-- The counts of `SMULV` for a scalar: 959 + 8 per non-zero nibble, 1024 (R176, R263). -/
def smulVarCount (s : Nat) : OpCount :=
  ⟨959 + 8 * ((nibbles s).filter (fun w => decide (w ≠ 0))).length, 1024⟩

/-- The counts of a command that ends with OK on this state (R263); for `PDECNV` an upper bound. A command
that ends with another code may do less (R262). -/
def opCount (i : Instr) (s : State) : OpCount :=
  match i with
  | .fmul _ _ _ => ⟨1, 0⟩
  | .fsq _ _ => ⟨0, 1⟩
  | .fsq2 _ _ => ⟨0, 1⟩
  | .finv _ _ => ⟨11, 254⟩
  | .padd _ _ _ => ⟨4, 0⟩
  | .psub _ _ _ => ⟨4, 0⟩
  | .pdbl _ _ => ⟨0, 4⟩
  | .pcvt _ ps v =>
    match s.readP ps with
    | some q => convertCount q v
    | none => ⟨0, 0⟩
  | .padde _ _ _ => ⟨9, 0⟩
  | .penc _ _ => ⟨13, 254⟩
  | .pdec _ _ => ⟨20, 255⟩
  | .pdecnv _ _ => ⟨20, 255⟩
  | .smulb _ _ => ⟨525, 16⟩
  | .smulv _ _ bs => smulVarCount (s.readB bs).toNat
  | .nop | .wipe | .cset _ | .bldl _ | .fzero _ | .fone _ | .fmov _ _ | .fadd _ _ _ | .fsub _ _ _
  | .fneg _ _ | .fcneg _ _ | .fcsel _ _ _ | .fisneg _ | .fisnz _ | .fenc _ _ | .fdec _ _ | .pident _
  | .pbase _ | .pmov _ _ | .pneg _ _ | .pgetc _ _ _ => ⟨0, 0⟩

end Sys2Proof.Machine
end

