-- ==== Sys2Proof/Tests/Slice0.lean ====
section
/-! SUPPORT. Tests of the model. Expected results are the spec's own: the rules' worked examples and
spec/95_test_vectors.md (section numbers below), never the model's answers. Then one witness for the hypotheses of each
statement of the certificates that has any. -/

set_option autoImplicit false
set_option Elab.async false

namespace Sys2Proof.Tests

open Sys2Proof.Machine

/-! ## Helpers -/

/-- The reset state with these field registers written. -/
def withF (l : List (FReg × Fp)) : State := l.foldl (fun s r => s.writeF r.1 r.2) State.reset

/-- The reset state with these point registers written. -/
def withP (l : List (PReg × Point)) : State := l.foldl (fun s r => s.writeP r.1 r.2) State.reset

/-- The reset state with one buffer written. -/
def withB (k : BReg) (v : Bytes32) : State := State.reset.writeB k v

/-- The answer is a next state, and it passes the check. -/
def after (a : Answer) (check : State → Bool) : Bool :=
  match a with
  | .next t => check t
  | .fault _ => false
  | .refused _ => false

/-- The value of the host's read after this answer. -/
def readAfter (a : Answer) : Option Word :=
  match a with
  | .next t => some t.readData
  | .fault _ => none
  | .refused _ => none

/-- B, Extended. -/
def ptB : Point := .extended Extended.base

/-- The Cached form of B: spec/95_test_vectors.md section 3, p1. -/
def ptBCached : Point := .cached
  ⟨0x07cf9d3a33d4ba65270b4898643d42c2cf932dc6fb8c0e192fbc93c6f58c3b85,
   0x44fd2f9298f81267a5c18434688f8a09fd399f05d140beb39d103905d740913e, 1,
   0x6f117b689f0c65a85a1b7dcbdd43598c26d9e823ccaac49eabc91205877aaa68⟩

/-- 2B, Completed: section 3, p2. -/
def pt2BCompleted : Point := .completed
  ⟨0x1e1d7c3f5e2dd9959ba93a3992af8df483c27e01dd454bd5b77a2ace96df76c5,
   0x17a259144f0bccc1cfc4ea36c075d689aed1761b5d6ddf3842baeb294340dcb4,
   0x300bbb66923be152ab1c5d7754050abdff4304c5ea4035429e8cc2eb37a06af2,
   0x4ff444996dc41ead54e3a288abfaf54200bcfb3a15bfcabd61733d14c85f94ff⟩

/-- 2B, Extended: section 3, p3. -/
def pt2B : Point := .extended
  ⟨0x3b6f8891960f6ad45776d1e1213c1bd9de44f888163a76921515e6cf9f3fd67e,
   0x336d9ece4cdb30925921f40f14dab827d6e156675107378db6d34c9a874a007e,
   0x59e4ea1a52a20ea2fd9cb81712f675b450b27bff31b598ba722d5b0bf61c8608,
   0x1f6e08da2d298daafc6ea6fedd5e07c172749500483d139bc532c7e392cad989⟩

/-- 2B, Projective: section 3, p5. -/
def pt2BProjective : Point := .projective
  ⟨0x4edbe2246583dab515ddb478484f06f677913e22058e9da4854579b3e7cff596,
   0x4cdb67b39336cc2496487d03c536ae09f5b85599d441cde36db4d326a1d28016,
   0x16793a8694a883a8bf672e05c4bd9d6d142c9effcc6d662e9c8b56c2fd872182⟩

/-! ## Well-formedness: an ill-formed term for each check (R71, R72, R74, R75) -/

theorem test_reject_unassigned_opcode : (⟨0x04, 0, 0, 0, 0⟩ : Fields).reject? = some .unassignedOpcode := by decide

theorem test_reject_unassigned_after_group : (⟨0x2D, 0, 0, 0, 0⟩ : Fields).reject? = some .unassignedOpcode := by decide

theorem test_reject_unused_a : (⟨0x1C, 1, 0, 0, 0⟩ : Fields).reject? = some .nonzeroUnusedField := by decide

theorem test_reject_unused_b : (⟨0x10, 3, 1, 0, 0⟩ : Fields).reject? = some .nonzeroUnusedField := by decide

theorem test_reject_unused_c : (⟨0x12, 1, 0, 1, 0⟩ : Fields).reject? = some .nonzeroUnusedField := by decide

theorem test_reject_unused_imm : (⟨0x13, 0, 0, 0, 1⟩ : Fields).reject? = some .nonzeroUnusedField := by decide

theorem test_reject_imm_bit1_of_cset : (⟨0x02, 0, 0, 0, 2⟩ : Fields).reject? = some .nonzeroUnusedField := by decide

theorem test_reject_imm_bit2_of_pcvt : (⟨0x27, 1, 0, 0, 4⟩ : Fields).reject? = some .nonzeroUnusedField := by decide

theorem test_reject_p8_in_a : (⟨0x20, 8, 0, 0, 0⟩ : Fields).reject? = some .indexOutsideFile := by decide

theorem test_reject_p8_in_b : (⟨0x22, 0, 8, 0, 0⟩ : Fields).reject? = some .indexOutsideFile := by decide

theorem test_reject_p8_in_c : (⟨0x24, 0, 0, 8, 0⟩ : Fields).reject? = some .indexOutsideFile := by decide

theorem test_reject_b4_in_a : (⟨0x1E, 4, 0, 0, 0⟩ : Fields).reject? = some .indexOutsideFile := by decide

theorem test_reject_b4_in_b : (⟨0x1F, 0, 4, 0, 0⟩ : Fields).reject? = some .indexOutsideFile := by decide

theorem test_reject_b4_in_c : (⟨0x31, 0, 0, 4, 0⟩ : Fields).reject? = some .indexOutsideFile := by decide

theorem test_accept_f15 : (⟨0x13, 15, 15, 15, 0⟩ : Fields).wellFormed = true := by decide

/-! ## Decoding: every command, by a word written out from the spec (R70, R74; the words of section 2 to 8) -/


/-- One word of each kind of format, field by field: op, a, b, c, imm. -/
theorem test_decode_binary : decode 0b00010011_0010_0000_0001_000000000000 = .ok (.fadd 2 0 1) ∧
    decode 0b00000010_0000_0000_0000_000000000001 = .ok (.cset true) ∧
    decode 0b00011100_0000_0011_0000_000000000000 = .ok (.fisneg 3) ∧
    decode 0b00100111_0101_0100_0000_000000000001 = .ok (.pcvt 5 4 .projective) ∧
    decode 0b00110001_0001_0000_0001_000000000000 = .ok (.smulv 1 0 1) := by exact ⟨rfl, rfl, rfl, rfl, rfl⟩

theorem test_decode_system : decode 0x00000000 = .ok .nop ∧
    decode 0x01000000 = .ok .wipe ∧
    decode 0x02000000 = .ok (.cset false) ∧
    decode 0x03100000 = .ok (.bldl 1) := by exact ⟨rfl, rfl, rfl, rfl⟩

theorem test_decode_field : decode 0x10300000 = .ok (.fzero 3) ∧
    decode 0x11200000 = .ok (.fone 2) ∧
    decode 0x12760000 = .ok (.fmov 7 6) ∧
    decode 0x13421000 = .ok (.fadd 4 2 1) ∧
    decode 0x14321000 = .ok (.fsub 3 2 1) ∧
    decode 0x15100000 = .ok (.fneg 1 0) ∧
    decode 0x16443000 = .ok (.fmul 4 4 3) ∧
    decode 0x17100000 = .ok (.fsq 1 0) ∧
    decode 0x18100000 = .ok (.fsq2 1 0) ∧
    decode 0x19330000 = .ok (.finv 3 3) ∧
    decode 0x1A100000 = .ok (.fcneg 1 0) ∧
    decode 0x1B201000 = .ok (.fcsel 2 0 1) ∧
    decode 0x1C030000 = .ok (.fisneg 3) ∧
    decode 0x1D030000 = .ok (.fisnz 3) ∧
    decode 0x1E240000 = .ok (.fenc 2 4) ∧
    decode 0x1F000000 = .ok (.fdec 0 0) := by exact ⟨rfl, rfl, rfl, rfl, rfl, rfl, rfl, rfl, rfl, rfl, rfl, rfl, rfl, rfl, rfl, rfl⟩

theorem test_decode_group : decode 0x20700000 = .ok (.pident 7) ∧
    decode 0x21100000 = .ok (.pbase 1) ∧
    decode 0x22520000 = .ok (.pmov 5 2) ∧
    decode 0x23700000 = .ok (.pneg 7 0) ∧
    decode 0x24034000 = .ok (.padd 0 3 4) ∧
    decode 0x25601000 = .ok (.psub 6 0 1) ∧
    decode 0x26210000 = .ok (.pdbl 2 1) ∧
    decode 0x27100003 = .ok (.pcvt 1 0 .cached) ∧
    decode 0x28050003 = .ok (.pgetc 0 5 3) ∧
    decode 0x29370000 = .ok (.penc 3 7) ∧
    decode 0x2A000000 = .ok (.pdec 0 0) ∧
    decode 0x2B100000 = .ok (.pdecnv 1 0) ∧
    decode 0x2C700000 = .ok (.padde 7 0 0) := by exact ⟨rfl, rfl, rfl, rfl, rfl, rfl, rfl, rfl, rfl, rfl, rfl, rfl, rfl⟩

theorem test_decode_scalar : decode 0x30120000 = .ok (.smulb 1 2) ∧
    decode 0x31430000 = .ok (.smulv 4 3 0) := by exact ⟨rfl, rfl⟩

/-- R75: the opcodes with a row are 0x00 to 0x03, 0x10 to 0x1F, 0x20 to 0x2C, 0x30 and 0x31. -/
theorem test_decode_opcode_map : (List.range 256).all (fun op => (shapeOf (BitVec.ofNat 8 op)).isSome ==
    (decide (op ≤ 3) || (decide (16 ≤ op) && decide (op ≤ 44)) || op == 48 || op == 49)) = true := by decide +kernel

/-- Section 5: the illegal words, each leaving STATUS 0x12 and nothing else changed. -/
theorem test_decode_illegal_words : [0x04000000, 0x2D000000, 0xFFFFFFFF, 0x00000001, 0x02000002, 0x13000001, 0x1C100000, 0x20800000, 0x2A800000,
    0x1E400000, 0x27100004].all (fun w => after (runCommand w State.reset)
      (fun t => decide (t = { State.reset with err := .illegal, sticky := true }) && t.status == 0x12)) = true := by decide +kernel

theorem test_table_word_is_little_end_first : decodeTableWord 32 0x13201000 = some (.fadd 2 0 1) ∧ decodeTableWord 32 0x04000000 = none := by decide +kernel

/-! ## Field commands (section 2) -/


theorem test_fzero : after (runCommand 0x10500000 State.reset)
    (fun t => t.readF 5 == some 0 && t.status == 0x00) = true := by decide +kernel

theorem test_fone : after (runCommand 0x11600000 State.reset)
    (fun t => t.readF 6 == some 1 && t.status == 0x00) = true := by decide +kernel

theorem test_fmov : after (runCommand 0x12760000 (withF [(6, 1)]))
    (fun t => t.readF 7 == some 1 && t.status == 0x00) = true := by decide +kernel

theorem test_fadd_wraps : after (runCommand 0x13201000 (withF [(0, -1), (1, 1)]))
    (fun t => t.readF 2 == some 0 && t.status == 0x00) = true := by decide +kernel

theorem test_fadd_empty : after (runCommand 0x13201000 (withF [(0, 1)]))
    (fun t => t.readF 2 == none && t.status == 0x22) = true := by decide +kernel

theorem test_fsub_wraps : after (runCommand 0x14201000 (withF [(0, 0), (1, 1)]))
    (fun t => t.readF 2 == some 0x7fffffffffffffffffffffffffffffffffffffffffffffffffffffffffffffec && t.status == 0x00) = true := by decide +kernel

theorem test_fneg : after (runCommand 0x15100000 (withF [(0, 1)]))
    (fun t => t.readF 1 == some 0x7fffffffffffffffffffffffffffffffffffffffffffffffffffffffffffffec && t.status == 0x00) = true := by decide +kernel

theorem test_fneg_zero : after (runCommand 0x15100000 (withF [(0, 0)]))
    (fun t => t.readF 1 == some 0 && t.status == 0x00) = true := by decide +kernel

theorem test_fmul : after (runCommand 0x16201000 (withF [(0, -1), (1, -1)]))
    (fun t => t.readF 2 == some 1 && t.status == 0x00) = true := by decide +kernel

theorem test_fsq : after (runCommand 0x17100000 (withF [(0, 0x100000000000000000000000000000000)]))
    (fun t => t.readF 1 == some 38 && t.status == 0x00) = true := by decide +kernel

theorem test_fsq2 : after (runCommand 0x18100000 (withF [(0, 0x80000000000000000000000000000000)]))
    (fun t => t.readF 1 == some 19 && t.status == 0x00) = true := by decide +kernel

theorem test_finv_two : after (runCommand 0x19100000 (withF [(0, 2)]))
    (fun t => t.readF 1 == some 0x3ffffffffffffffffffffffffffffffffffffffffffffffffffffffffffffff7 && t.status == 0x00) = true := by decide +kernel

theorem test_finv_zero : after (runCommand 0x19100000 (withF [(0, 0)]))
    (fun t => t.readF 1 == some 0 && t.status == 0x00) = true := by decide +kernel

theorem test_fcneg_set : after (runCommand 0x1A100000 ((withF [(0, 5)]).writeCf true))
    (fun t => t.readF 1 == some 0x7fffffffffffffffffffffffffffffffffffffffffffffffffffffffffffffe8 && t.status == 0x01) = true := by decide +kernel

theorem test_fcneg_clear : after (runCommand 0x1A100000 (withF [(0, 5)]))
    (fun t => t.readF 1 == some 5 && t.status == 0x00) = true := by decide +kernel

theorem test_fcsel_clear : after (runCommand 0x1B201000 (withF [(0, 5), (1, 7)]))
    (fun t => t.readF 2 == some 5 && t.status == 0x00) = true := by decide +kernel

theorem test_fcsel_set : after (runCommand 0x1B201000 ((withF [(0, 5), (1, 7)]).writeCf true))
    (fun t => t.readF 2 == some 7 && t.status == 0x01) = true := by decide +kernel

theorem test_fisneg_one : after (runCommand 0x1C030000 (withF [(3, 1)]))
    (fun t => t.cf && t.status == 0x01) = true := by decide +kernel

theorem test_fisneg_p_minus_one : after (runCommand 0x1C030000 ((withF [(3, -1)]).writeCf true))
    (fun t => !t.cf && t.status == 0x00) = true := by decide +kernel

theorem test_fisnz_zero : after (runCommand 0x1D030000 ((withF [(3, 0)]).writeCf true))
    (fun t => !t.cf && t.status == 0x00) = true := by decide +kernel

theorem test_fisnz_p_minus_one : after (runCommand 0x1D030000 (withF [(3, -1)]))
    (fun t => t.cf && t.status == 0x01) = true := by decide +kernel

theorem test_fenc : after (runCommand 0x1E140000 (withF [(4, -1)]))
    (fun t => t.readB 1 == 0x7fffffffffffffffffffffffffffffffffffffffffffffffffffffffffffffec && t.status == 0x00) = true := by decide +kernel

theorem test_fdec_noncanonical : after (runCommand 0x1F000000 (withB 0 0x7fffffffffffffffffffffffffffffffffffffffffffffffffffffffffffffed))
    (fun t => t.readF 0 == some 0 && t.status == 0x00) = true := by decide +kernel

theorem test_fdec_all_ones : after (runCommand 0x1F000000 (withB 0 0xffffffffffffffffffffffffffffffffffffffffffffffffffffffffffffffff))
    (fun t => t.readF 0 == some 18 && t.status == 0x00) = true := by decide +kernel

/-! ## Group commands (section 3) -/


theorem test_pident : after (runCommand 0x20700000 State.reset)
    (fun t => t.readP 7 == some (.extended ⟨0, 1, 1, 0⟩) && t.status == 0x00) = true := by decide +kernel

theorem test_pbase : after (runCommand 0x21000000 State.reset)
    (fun t => t.readP 0 == some (.extended
      ⟨0x216936d3cd6e53fec0a4e231fdd6dc5c692cc7609525a7b2c9562d608f25d51a,
       0x6666666666666666666666666666666666666666666666666666666666666658, 1,
       0x67875f0fd78b766566ea4e8e64abe37d20f09f80775152f56dde8ab3a5b7dda3⟩) && t.status == 0x00) = true := by decide +kernel

theorem test_pmov_completed : after (runCommand 0x22520000 (withP [(2, pt2BCompleted)]))
    (fun t => t.readP 5 == some pt2BCompleted && t.status == 0x00) = true := by decide +kernel

theorem test_pneg_base : after (runCommand 0x23700000 (withP [(0, ptB)]))
    (fun t => t.readP 7 == some (.extended
      ⟨0x5e96c92c3291ac013f5b1dce022923a396d3389f6ada584d36a9d29f70da2ad3,
       0x6666666666666666666666666666666666666666666666666666666666666658, 1,
       0x1878a0f02874899a9915b1719b541c82df0f607f88aead0a9221754c5a48224a⟩) && t.status == 0x00) = true := by decide +kernel

theorem test_pneg_cached : after (runCommand 0x23610000 (withP [(1, ptBCached)]))
    (fun t => t.readP 6 == some (.cached
      ⟨0x44fd2f9298f81267a5c18434688f8a09fd399f05d140beb39d103905d740913e,
       0x07cf9d3a33d4ba65270b4898643d42c2cf932dc6fb8c0e192fbc93c6f58c3b85, 1,
       0x10ee849760f39a57a5e4823422bca673d92617dc33553b615436edfa78855585⟩) && t.status == 0x00) = true := by decide +kernel

theorem test_padd : after (runCommand 0x24201000 (withP [(0, ptB), (1, ptBCached)]))
    (fun t => t.readP 2 == some pt2BCompleted && t.status == 0x00) = true := by decide +kernel

theorem test_padd_empty_before_tag : after (runCommand 0x24034000 (withP [(3, pt2BProjective)]))
    (fun t => t.readP 0 == none && t.status == 0x22) = true := by decide +kernel

theorem test_psub_self : after (runCommand 0x25601000 (withP [(0, ptB), (1, ptBCached)]))
    (fun t => t.readP 6 == some (.completed
      ⟨0, 0x300bbb66923be152ab1c5d7754050abdff4304c5ea4035429e8cc2eb37a06af2,
       0x4ff444996dc41ead54e3a288abfaf54200bcfb3a15bfcabd61733d14c85f94ff,
       0x300bbb66923be152ab1c5d7754050abdff4304c5ea4035429e8cc2eb37a06af2⟩) && t.status == 0x00) = true := by decide +kernel

theorem test_pdbl_base : after (runCommand 0x26400000 (withP [(0, ptB)]))
    (fun t => t.readP 4 == some (.completed
      ⟨0x4f0ebe1faf16eccacdd49d1cc957c6fa41e13f00eea2a5eadbbd15674b6fbb59,
       0x0bd12c8a2785e660e7e2751b603aeb44d768bb0daeb6ef9c215d7594a1a06e5a,
       0x1805ddb3491df0a9558e2ebbaa02855effa18262f5201aa14f4661759bd03579,
       0x67fa224cb6e20f56aa71d14455fd7aa1005e7d9d0adfe55eb0b99e8a642fca76⟩) && t.status == 0x00) = true := by decide +kernel

theorem test_pdbl_identity : after (runCommand 0x26670000 (withP [(7, .extended ⟨0, 1, 1, 0⟩)]))
    (fun t => t.readP 6 == some (.completed ⟨0, 1, 1, 1⟩) && t.status == 0x00) = true := by decide +kernel

theorem test_pcvt_cached : after (runCommand 0x27100003 (withP [(0, ptB)]))
    (fun t => t.readP 1 == some ptBCached && t.status == 0x00) = true := by decide +kernel

theorem test_pcvt_extended : after (runCommand 0x27320000 (withP [(2, pt2BCompleted)]))
    (fun t => t.readP 3 == some pt2B && t.status == 0x00) = true := by decide +kernel

theorem test_pgetc_y : after (runCommand 0x28000001 (withP [(0, ptB)]))
    (fun t => t.readF 0 == some 0x6666666666666666666666666666666666666666666666666666666666666658 && t.status == 0x00) = true := by decide +kernel

theorem test_pgetc_no_component : after (runCommand 0x28050003 (withP [(5, pt2BProjective)]))
    (fun t => t.readF 0 == none && t.status == 0x32) = true := by decide +kernel

theorem test_penc_extended : after (runCommand 0x29030000 (withP [(3, pt2B)]))
    (fun t => t.readB 0 == 0x2260cdf3092329c21da25ee8c9a21f5697390f51643851560e5f46ae6af8a3c9 && t.status == 0x00) = true := by decide +kernel

theorem test_penc_sign : after (runCommand 0x29270000 (withP [(7, .extended Extended.base.negate)]))
    (fun t => t.readB 2 == 0xe666666666666666666666666666666666666666666666666666666666666658 && t.status == 0x00) = true := by decide +kernel

theorem test_pdec_y3 : after (runCommand 0x2A000000 (withB 0 3))
    (fun t => t.readP 0 == some (.extended
      ⟨0x68febfd42613608ef448af58b1ef28311c0d964bdd30bc07fef6e61f01ae05e2, 3, 1,
       0x3afc3f7c723a21acdcda0e0a15cd78935428c2e397923417fce4b25d050a11cc⟩) && t.status == 0x00) = true := by decide +kernel

theorem test_pdec_fails : after (runCommand 0x2A000000 ((withB 0 2).writeP 0 ptB))
    (fun t => t.readP 0 == none && t.status == 0x50) = true := by decide +kernel

theorem test_pdecnv_base : after (runCommand 0x2B100000 (withB 0 0x6666666666666666666666666666666666666666666666666666666666666658))
    (fun t => t.readP 1 == some (.extended
      ⟨0x5e96c92c3291ac013f5b1dce022923a396d3389f6ada584d36a9d29f70da2ad3,
       0x6666666666666666666666666666666666666666666666666666666666666658, 1,
       0x1878a0f02874899a9915b1719b541c82df0f607f88aead0a9221754c5a48224a⟩) && t.status == 0x00) = true := by decide +kernel

theorem test_pdecnv_order_four : after (runCommand 0x2B100000 (withB 0 0))
    (fun t => t.readP 1 == some (.extended ⟨0x547cdb7fb03e20f4d4b2ff66c2042858d0bce7f952d01b873b11e4d8b5f15f3d, 0, 1, 0⟩) && t.status == 0x00) = true := by decide +kernel

theorem test_padde : after (runCommand 0x2C700000 (withP [(0, ptB)]))
    (fun t => t.readP 7 == some pt2B && t.status == 0x00) = true := by decide +kernel

/-! ## Scalar commands (section 4) -/


theorem test_smulb_two : after (runCommand 0x30000000 (withB 0 2))
    (fun t => t.readP 0 == some (.extended
      ⟨0x414449388e710e11d38586bdc9ddf722803549f4ffc49f7b4c5ad17bc5a3935c,
       0x5b4c6022216ebed6e68ef4622d045c080e3a6b49ccf096f5b28ad0f7c1a47127,
       0x6ce8a5cd60f448148be60ac3df121f85df5c43946af53fc6b9d1742caff18a80,
       0x00f66f08fa9561e1300060e1e107722100defa1c99920cb7a531e17a54020d0f⟩) && t.status == 0x00) = true := by decide +kernel

theorem test_smulb_range : after (runCommand 0x30100000 (withB 0 0x8000000000000000000000000000000000000000000000000000000000000000))
    (fun t => t.readP 1 == none && t.status == 0x42) = true := by decide +kernel

theorem test_smulv_one : after (runCommand 0x31100000 ((withB 0 1).writeP 0 ptB))
    (fun t => t.readP 1 == some (.extended
      ⟨0x05a4db4f35b94ffb029388c7f75b7171a4b31d8254969ecb2558b5823c97547b,
       0x1999999999999999999999999999999999999999999999999999999999999999, 4,
       0x1e1d7c3f5e2dd9959ba93a3992af8df483c27e01dd454bd5b77a2ace96df76c5⟩) && t.status == 0x00) = true := by decide +kernel

theorem test_smulv_projective : after (runCommand 0x31430000 ((withB 0 1).writeP 3 pt2BProjective))
    (fun t => t.readP 4 == none && t.status == 0x32) = true := by decide +kernel

/-- R171: the digits of 8, 0xFF and 2^255 - 1. -/
theorem test_recode_digits : digit (recode 8) 0 = -8 ∧ digit (recode 8) 1 = 1 ∧ digit (recode 0xFF) 0 = -1 ∧ digit (recode 0xFF) 2 = 1 ∧
    digit (recode (2 ^ 255 - 1)) 0 = -1 ∧ digit (recode (2 ^ 255 - 1)) 63 = 8 := by decide +kernel

/-! ## System commands and the window (section 5) -/


theorem test_nop_clears_err : after (runCommand 0x00000000 { State.reset with err := .decode })
    (fun t => t.err == .ok && t.status == 0x00) = true := by decide +kernel

theorem test_wipe_keeps_sticky : after (runCommand 0x01000000 { (withF [(0, 1)]).writeP 0 ptB with cf := true, sticky := true })
    (fun t => t.readF 0 == none && t.readP 0 == none && !t.cf && t.status == 0x02) = true := by decide +kernel

theorem test_wipe_buffers : after (runCommand 0x01000000 (withB 3 9))
    (fun t => t.readB 3 == 0 && t.status == 0x00) = true := by decide +kernel

theorem test_cset : after (runCommand 0x02000001 State.reset)
    (fun t => t.cf && t.status == 0x01) = true := by decide +kernel

theorem test_bldl : after (runCommand 0x03100000 State.reset)
    (fun t => t.readB 1 == 0x1000000000000000000000000000000014def9dea2f79cd65812631a5cf5d3ed && t.status == 0x00) = true := by decide +kernel

theorem test_write_word : after (hostAccess (.write 0x80 4 0x04030201) State.reset) (fun t =>
    (List.range 5).map (fun j => t.mem.read (0x80 + j)) == [1, 2, 3, 4, 0]) = true := by decide +kernel

theorem test_write_half : after (hostAccess (.write 0x9E 2 0xBBAA) State.reset) (fun t =>
    t.mem.read 0x9E == 0xAA && t.mem.read 0x9F == 0xBB && t.readB 1 == 0) = true := by decide +kernel

theorem test_read_half : readAfter (hostAccess (.read 0x80 2) (withB 0 0x04030201)) = some 0x0201 := by decide +kernel

theorem test_read_order : readAfter (hostAccess (.read 0xA0 1) (State.reset.writeB 1 groupOrderBytes)) = some 0xED ∧
    readAfter (hostAccess (.read 0xBC 4) (State.reset.writeB 1 groupOrderBytes)) = some 0x10000000 := by decide +kernel

theorem test_ignored_writes : [(4, 4), (0x40, 4), (0, 2)].all (fun a => after (hostAccess (.write a.1 a.2 0xFFFFFFFF) State.reset)
    (fun t => decide (t = State.reset))) = true := by decide +kernel

theorem test_zero_reads : [(0, 4), (0x40, 4), (4, 1)].all (fun a =>
    readAfter (hostAccess (.read a.1 a.2) { State.reset with cf := true }) == some 0) = true := by decide +kernel

theorem test_read_status : readAfter (hostAccess (.read 4 4) { State.reset with cf := true, sticky := true, err := .tag }) = some 0x33 := by decide +kernel

theorem test_refused_accesses : hostAccess (.read 0x81 2) State.reset = .refused .misalignedAccess ∧
    hostAccess (.read 0xFE 4) State.reset = .fault .outsideWindow ∧
    hostAccess (.read 0x80 3) State.reset = .refused .badAccessSize := by exact ⟨rfl, rfl, rfl⟩

theorem test_step_fetch_word : after (step (State.reset.withFetchWord 32 0x11600000))
    (fun t => t.readF 6 == some 1 && decide (t.pending = [])) = true := by decide +kernel

theorem test_step_reset : after (step { withB 0 7 with cf := true, sticky := true, pending := [.reset] })
    (fun t => decide (t = State.reset)) = true := by decide +kernel

/-! ## Host-side functions (section 6) -/


theorem test_clamp_zero_seed : clamp clampEd25519 0x96f1874a926079f5907a26b57079b5583e42c3d0fdbb2b7b8638a8dbc1ad4650 =
    0x56f1874a926079f5907a26b57079b5583e42c3d0fdbb2b7b8638a8dbc1ad4650 := by decide +kernel

/-- R203: a non-zero ERR is the platform's fault, ERR = 0 is none. -/
theorem test_platform_fault : (platformFault { State.reset with err := .uninit }).map (·.1) = some true ∧
    (platformFault { State.reset with sticky := true, cf := true }).map (·.1) = some false := by decide +kernel

theorem test_small_order : hasSmallOrder 0xffffffffffffffffffffffffffffffffffffffffffffffffffffffffffffffee = true ∧ hasSmallOrder 0x6666666666666666666666666666666666666666666666666666666666666658 = false ∧
    hasSmallOrder 0x29da598ba148c03aa643e21d77153265730d6f2ad0a8a3622da4b6cebc276a3b = false := by decide +kernel

theorem test_timing_class : timingClass (.pdecnv 0 0) = .vt ∧ timingClass (.smulv 0 0 0) = .vt ∧ timingClass (.smulb 0 0) = .ct := by decide

/-! ## Witnesses: a state and operands that meet the hypotheses of each statement -/

/-- f0 = 5, f1 = 7, f2 = 0. -/
def stF : State := withF [(0, 5), (1, 7), (2, 0)]

/-- p0 = B Extended, p1 = B Cached, p2 = 2B Completed, p3 = 2B Projective. -/
def stP : State := withP [(0, ptB), (1, ptBCached), (2, pt2BCompleted), (3, pt2BProjective)]

/-- Buffer 0 holds the string, p0 is B Extended. -/
def stB (v : Bytes32) : State := (withB 0 v).writeP 0 ptB

theorem witness_EncodeDecode : decode 0x31101000 = .ok (.smulv 1 0 1) := rfl

theorem witness_OpcodeTableDecode : (⟨"SMULV", 0x31000000, 0xFF88CFFF⟩ : OpcodeRow) ∈ opcodeTable ∧
    OpcodeRow.matchesWord ⟨"SMULV", 0x31000000, 0xFF88CFFF⟩ 0x31773000 := by
  unfold OpcodeRow.matchesWord; decide +kernel

theorem witness_IllegalWord : (∀ r ∈ opcodeTable, ¬ r.matchesWord 0x2D000000) ∧
    ((⟨"NOP", 0, 0xFFFFFFFF⟩ : OpcodeRow) ∈ opcodeTable ∧ OpcodeRow.matchesWord ⟨"NOP", 0, 0xFFFFFFFF⟩ 0) ∧
    after (runCommand 0 State.reset) (fun _ => true) = true ∧
    ¬ (((0x2D000000 : Word).extractLsb' 24 8).toNat ≤ 0x03 ∨
      (0x10 ≤ ((0x2D000000 : Word).extractLsb' 24 8).toNat ∧ ((0x2D000000 : Word).extractLsb' 24 8).toNat ≤ 0x2C) ∨
      ((0x2D000000 : Word).extractLsb' 24 8).toNat = 0x30 ∨ ((0x2D000000 : Word).extractLsb' 24 8).toNat = 0x31) := by
  unfold OpcodeRow.matchesWord; decide +kernel

theorem witness_StepRunsCommand :
    (State.reset.withFetchWord 32 0x11600000).pending = .write Config.cmdOffset 4 0x11600000 :: [] ∧
    decode 0x11600000 = .ok (.fone 6) ∧
    (State.reset.withFetchWord 32 0x04000000).pending = .write Config.cmdOffset 4 0x04000000 :: [] ∧
    decode 0x04000000 = .error .unassignedOpcode ∧ State.reset.pending = [] := ⟨rfl, rfl, rfl, rfl, rfl⟩

theorem witness_ResetEvent : ({ stF with pending := [.reset] } : State).pending = .reset :: [] ∧
    ((0x7C : Nat) % 4 = 0 ∧ (0x08 : Nat) ≤ 0x7C ∧ (0x7C : Nat) + 4 ≤ 0x80) ∧ (0x08 : Nat) % 1 = 0 := by
  exact ⟨rfl, by decide, by decide⟩

theorem witness_StatusRegister : (0 : Nat) + 4 ≤ 4 ∧ (3 : Nat) + 1 ≤ 4 ∧ ((2 : Nat) < 4 ∧ (4 : Nat) ≤ 6 ∧ (6 : Nat) + 2 ≤ 8) ∧
    ((4 : Nat) % 4 = 0 ∧ (4 : Nat) + 4 ≤ 8) ∧ ((7 : Nat) % 1 = 0 ∧ (7 : Nat) + 1 ≤ 8) := by decide

/-- The lowest and the highest access of each size. -/
theorem witness_MemReadRule : ∀ a ∈ [(0, 1), (255, 1), (0, 2), (254, 2), (0, 4), (4, 4), (0x7C, 4), (0x80, 4), (252, 4)],
    (a.2 = 1 ∨ a.2 = 2 ∨ a.2 = 4) ∧ a.1 % a.2 = 0 ∧ a.1 + a.2 ≤ 256 := by decide

theorem witness_MemWriteRule : (stB 9).MemValid ∧ ((0x80 : Nat) ≤ 0x80 ∧ (0xFC : Nat) + 4 ≤ 256) ∧
    ((0x7C : Nat) < 0x80 ∧ ¬ ((0x7C : Nat) = 0 ∧ (4 : Nat) = 4)) ∧ ¬ ((0 : Nat) = 0 ∧ (2 : Nat) = 4) := by
  unfold State.MemValid; decide +kernel

theorem witness_UndefinedAccessNames : ¬ ((3 : Nat) = 1 ∨ (3 : Nat) = 2 ∨ (3 : Nat) = 4) ∧ (256 : Nat) < 253 + 4 ∧
    ((254 : Nat) + 2 ≤ 256 ∧ (0x81 : Nat) + 2 ≤ 256 ∧ (0x81 : Nat) % 2 ≠ 0) := by decide

theorem witness_ByteOrder : ((0x80 : Nat) ≤ 0x80 ∧ (0x80 : Nat) % 4 = 0 ∧ (0x80 : Nat) + 4 ≤ 256) ∧
    ((0x80 : Nat) ≤ 0xFC ∧ (0xFC : Nat) % 4 = 0 ∧ (0xFC : Nat) + 4 ≤ 256) := by decide

theorem witness_BufferTransfer : State.reset.MemValid ∧ (withB 3 9).MemValid := by
  unfold State.MemValid; decide +kernel

theorem witness_WindowAddress : (0x3FF : Nat) < 0x400 ∧ ((4 : Nat) = 1 ∨ (4 : Nat) = 2 ∨ (4 : Nat) = 4) := by decide

/-- Each of the six result codes is that of some command. -/
theorem witness_ResultCodeEffect :
    after (runCommand 0x00000000 stP) (fun t => t.err == .ok) = true ∧
    after (runCommand 0x04000000 stP) (fun t => t.err == .illegal) = true ∧
    after (runCommand 0x24034000 stP) (fun t => t.err == .uninit) = true ∧
    after (runCommand 0x24031000 stP) (fun t => t.err == .tag) = true ∧
    after (runCommand 0x30000000 (stB (1 <<< 255))) (fun t => t.err == .range) = true ∧
    after (runCommand 0x2A000000 (stB 2)) (fun t => t.err == .decode) = true := by decide +kernel

theorem witness_StickyRule :
    after (runCommand 0x04000000 stP) (fun t => t.sticky) = true ∧
    after (step { stF with pending := [.read 4 4] }) (fun _ => true) = true ∧
    (∀ w rest, ({ stF with pending := [.read 4 4] } : State).pending ≠ .write Config.cmdOffset 4 w :: rest) ∧
    (∀ rest, ({ stF with pending := [.read 4 4] } : State).pending ≠ .reset :: rest) ∧
    ({ stF with pending := [.reset] } : State).pending = .reset :: [] := by
  refine ⟨by decide +kernel, by decide +kernel, ?_, ?_, rfl⟩ <;> simp

/-- Commands that end with UNINIT, TAG, RANGE and DECODE. -/
theorem witness_ResultCodeCauses :
    after (exec (.padd 0 3 4) stP) (fun t => t.err == .uninit) = true ∧
    after (exec (.pdbl 4 2) stP) (fun t => t.err == .tag) = true ∧
    after (exec (.pcvt 4 3 .extended) stP) (fun t => t.err == .tag) = true ∧
    after (exec (.smulb 0 0) (stB (1 <<< 255))) (fun t => t.err == .range) = true ∧
    after (exec (.pdecnv 0 0) (stB 7)) (fun t => t.err == .decode) = true := by decide +kernel

theorem witness_sourcesWritten : stP.SourcesWritten (.padd 0 3 1) ∧ ¬ stP.SourcesWritten (.padd 0 3 4) ∧
    stF.SourcesWritten (.fadd 9 0 1) := by
  unfold State.SourcesWritten; decide +kernel

theorem witness_tagsAccepted : stP.TagsAccepted (.padd 0 0 1) ∧ ¬ stP.TagsAccepted (.padd 0 3 1) ∧
    stP.TagsAccepted (.pcvt 4 2 .extended) := by
  refine ⟨⟨⟨_, rfl, rfl⟩, ⟨_, rfl, rfl⟩⟩, ?_, .inl ⟨⟨_, rfl, rfl⟩, .inl rfl⟩⟩
  rintro ⟨⟨q, hq, hv⟩, _⟩
  cases hq
  cases hv

theorem witness_Priority : decode 0x04000000 = .error .unassignedOpcode ∧ decode 0x24034000 = .ok (.padd 0 3 4) ∧
    decode 0x24031000 = .ok (.padd 0 3 1) ∧ decode 0x30000000 = .ok (.smulb 0 0) ∧
    (stB (1 <<< 255)).SourcesWritten (.smulb 0 0) ∧ (stB (1 <<< 255)).TagsAccepted (.smulb 0 0) ∧
    ((stB (1 <<< 255)).readB 0).getLsbD 255 = true ∧ decodePoint? ((stB 2).readB 0) = none ∧
    decodePoint? ((stB 3).readB 0) ≠ none ∧ ((stB 3).readB 0).getLsbD 255 = false := by
  refine ⟨rfl, rfl, rfl, rfl, ?_, trivial, by decide +kernel, by decide +kernel, by decide +kernel, by decide +kernel⟩
  unfold State.SourcesWritten; decide +kernel

theorem witness_Totality : decode 0x24001000 = .ok (.padd 0 0 1) ∧ stP.SourcesWritten (.padd 0 0 1) ∧
    stP.TagsAccepted (.padd 0 0 1) := by
  refine ⟨rfl, ?_, witness_tagsAccepted.1⟩
  unfold State.SourcesWritten; decide +kernel

theorem witness_ConditionFlag : stF.readF 1 = some 7 ∧ after (exec (.fisneg 1) stF) (fun t => t.cf) = true ∧
    after (exec (.fisnz 2) { stF with cf := true }) (fun t => !t.cf) = true ∧
    after (exec (.fisneg 9) { stF with cf := true }) (fun t => t.cf && t.err != .ok) = true ∧
    after (exec (.fadd 3 0 1) { stF with cf := true }) (fun t => t.cf) = true := by decide +kernel

theorem witness_NopResult : (0x00100000 : Word).extractLsb' 24 8 = 0x00 ∧ (0x00100000 : Word) ≠ 0 := by decide

theorem witness_WipeResult : (0x01000001 : Word).extractLsb' 24 8 = 0x01 ∧ (0x01000001 : Word) ≠ 0x01000000 := by decide

theorem witness_CsetResult : (0x02000003 : Word).extractLsb' 24 8 = 0x02 ∧ (0x02000003 : Word) ≠ 0x02000000 ∧
    (0x02000003 : Word) ≠ 0x02000001 := by decide

theorem witness_BldlResult : (0x03400000 : Word).extractLsb' 24 8 = 0x03 ∧
    (∀ bd, (0x03400000 : Word) ≠ encode (.bldl bd)) ∧ (stB 9).MemValid := by
  unfold State.MemValid; decide +kernel

theorem witness_FieldMoves : stF.readF 0 = some 5 ∧ stF.readF 1 = some 7 ∧ stF.readF 2 = some 0 ∧
    ({ stF with cf := true } : State).readF 1 = some 7 := by decide +kernel

theorem witness_FieldArithmetic : stF.readF 0 = some 5 ∧ stF.readF 1 = some 7 := by decide +kernel

/-- Both a zero and a non-zero operand. -/
theorem witness_FinvResult : stF.readF 2 = some 0 ∧ stF.readF 0 = some 5 ∧ (5 : Fp) ≠ 0 := by decide +kernel

theorem witness_FieldTests : stF.readF 1 = some 7 := by decide +kernel

theorem witness_NegativeParity : (1 : Fp) ≠ 0 := by decide

theorem witness_FencResult : stF.MemValid ∧ stF.readF 1 = some 7 := by
  unfold State.MemValid; decide +kernel

/-- A canonical string and one that is not: 9 and p. -/
theorem witness_FdecResult : (stB 9).MemValid ∧ ((stB 9).readB 0).toNat < fieldPrime ∧
    ¬ ((stB (BitVec.ofNat 256 fieldPrime)).readB 0).toNat < fieldPrime ∧
    after (exec (.fdec 0 0) (stB 9)) (fun t => after (exec (.fenc 1 0) t) (fun u => u.readB 1 == 9)) = true := by
  unfold State.MemValid; decide +kernel

theorem witness_PmovPnegResult : stP.readP 0 = some ptB ∧ stP.readP 1 = some ptBCached ∧
    stP.readP 2 = some pt2BCompleted ∧ stP.readP 3 = some pt2BProjective := by decide +kernel

theorem witness_AddSubResult : stP.readP 0 = some (.extended Extended.base) ∧ stP.readP 1 = some ptBCached := by
  decide +kernel

theorem witness_PdblResult : (withP [(0, .extended ⟨0, 1, 1, 0⟩)]).readP 0 = some (.extended ⟨0, 1, 1, 0⟩) ∧
    stP.readP 3 = some pt2BProjective := by decide +kernel

theorem witness_PcvtResult : stP.readP 2 = some pt2BCompleted ∧ stP.readP 0 = some ptB ∧
    (stP.readP 3 = some pt2BProjective ∧ ¬ ((pt2BProjective.variant = .completed ∧
      ((Variant.extended = .extended) ∨ Variant.extended = .projective)) ∨
      (pt2BProjective.variant = .extended ∧ (Variant.extended = .projective ∨ Variant.extended = .cached)))) := by
  decide +kernel

theorem valid_ptB : ptB.Valid := by unfold ptB Point.Valid; decide +kernel

theorem valid_ptBCached : ptBCached.Valid := by unfold ptBCached Point.Valid; decide +kernel

theorem valid_pt2BCompleted : pt2BCompleted.Valid := by unfold pt2BCompleted Point.Valid; decide +kernel

theorem valid_pt2BProjective : pt2BProjective.Valid := by unfold pt2BProjective Point.Valid; decide +kernel

theorem witness_PgetcResult : stP.readP 0 = some ptB ∧ stP.readP 1 = some ptBCached ∧ stP.readP 2 = some pt2BCompleted ∧
    (stP.readP 3 = some pt2BProjective ∧ (2 : Fin 4) ≠ 3) ∧ ptB.Valid ∧ ptB.variant ≠ .cached :=
  ⟨by decide +kernel, by decide +kernel, by decide +kernel, by decide +kernel, valid_ptB, by decide⟩

theorem witness_PencResult : stP.MemValid ∧ stP.readP 0 = some ptB ∧ ptB.variant = .extended ∧
    stP.readP 3 = some pt2BProjective ∧ pt2BProjective.variant = .projective := by
  unfold State.MemValid; decide +kernel

/-- A string that encodes a point (y = 3), one that does not (y = 2), and u = 0 with the sign bit set. -/
theorem witness_PdecResult : (3 : Fp).val = (((stB 3).readB 0).toNat % 2 ^ 255) % fieldPrime ∧
    (∃ x : Fp, (curveD * 3 * 3 + 1) * x * x = 3 * 3 - 1) ∧ decodePoint? ((stB 2).readB 0) = none ∧
    ((1 : Fp) * 1 - 1 = 0 ∧ ((stB (1 <<< 255 ||| 1)).readB 0).getLsbD 255 = true) := by
  refine ⟨by decide +kernel, ⟨0x68febfd42613608ef448af58b1ef28311c0d964bdd30bc07fef6e61f01ae05e2, by decide +kernel⟩,
    by decide +kernel, by decide +kernel⟩

theorem witness_PdecnvResult : after (exec (.pdec 0 0) (stB 3)) (fun t => t.err == .ok) = true ∧
    after (exec (.pdec 0 0) (stB 2)) (fun t => t.err != .ok) = true ∧ decodePoint? ((stB 3).readB 0) =
      some ⟨0x68febfd42613608ef448af58b1ef28311c0d964bdd30bc07fef6e61f01ae05e2, 3⟩ := by decide +kernel

theorem witness_PaddeResult : (4 : PReg) ≠ 0 ∧ stP.readP 0 = some (.extended Extended.base) := by decide +kernel

/-- Valid operands of each kind the value theorem speaks of. -/
theorem witness_GroupValues : (stP.readP 0 = some ptB ∧ ptB.Valid ∧ ptB.variant = .extended) ∧
    (stP.readP 1 = some ptBCached ∧ ptBCached.Valid ∧ ptBCached.variant = .cached) ∧
    (stP.readP 3 = some pt2BProjective ∧ pt2BProjective.Valid ∧ pt2BProjective.variant = .projective) ∧
    stP.TagsAccepted (.pcvt 4 2 .extended) :=
  ⟨⟨by decide +kernel, valid_ptB, rfl⟩, ⟨by decide +kernel, valid_ptBCached, rfl⟩,
    ⟨by decide +kernel, valid_pt2BProjective, rfl⟩, witness_tagsAccepted.2.2⟩

theorem witness_PdecAfterPenc : stP.MemValid ∧ stP.readP 3 = some pt2BProjective ∧ pt2BProjective.Valid ∧
    pt2BProjective.variant = .projective := by
  refine ⟨?_, by decide +kernel, valid_pt2BProjective, rfl⟩
  unfold State.MemValid; decide +kernel

/-- p0 = B Extended and a doubling of it next. -/
def stInv : State := (State.reset.writeP 0 ptB).withFetchWord 32 0x26400000

theorem witness_StepKeepsInv : stInv.Inv ∧ after (step stInv) (fun _ => true) = true := by
  refine ⟨⟨⟨by decide +kernel, by decide +kernel⟩, ?_⟩, by decide +kernel⟩
  intro i q h
  have h' : (State.reset.writeP 0 ptB).readP i = some q := h
  rw [Laws.readP_writeP] at h'
  split at h'
  · cases h'; exact valid_ptB
  · rw [Laws.reset_readP] at h'; cases h'

theorem witness_RecodeDigits : (2 ^ 255 - 1 : Nat) < 2 ^ 255 ∧ (0 : Nat) < 2 ^ 255 := by decide

theorem witness_SelectValue : (31 : Nat) < 32 ∧ (-8 : Int) ≤ -8 ∧ (-8 : Int) ≤ 8 ∧ (8 : Int) ≤ 8 ∧ ¬ (0 : Int) < 0 := by decide

theorem witness_SmulbResult : ((stB 2).readB 0).getLsbD 255 = false ∧ ((stB (1 <<< 255)).readB 0).getLsbD 255 = true := by
  decide +kernel

theorem witness_SmulvResult : (stB 2).readP 0 = some (.extended Extended.base) ∧ Extended.base.Valid ∧
    (stB 0).readB 0 = 0 := by decide +kernel

theorem witness_BaseOrder : (groupOrder + 1) % groupOrder = 1 % groupOrder := by decide +kernel

theorem witness_FrameFieldRegister : after (exec (.fadd 3 0 1) stF) (fun _ => true) = true ∧
    after (exec (.pgetc 3 0 1) stP) (fun _ => true) = true := by decide +kernel

theorem witness_FramePointRegister : after (exec (.padd 4 0 1) stP) (fun _ => true) = true ∧
    after (exec (.pdec 4 0) (stB 2)) (fun _ => true) = true := by decide +kernel

theorem witness_FrameBuffer : after (exec (.fenc 3 0) stF) (fun _ => true) = true ∧ (0xE0 : Nat) = bufferOffset 3 := by
  decide +kernel

theorem witness_FrameFlag : after (exec (.fisneg 0) stF) (fun _ => true) = true := by decide +kernel

theorem witness_ClampResult : clampEd25519 = clampEd25519 ∧ clampX25519 = clampX25519 ∧ (3 : Nat) ≤ 253 := by decide

theorem witness_SmallOrderStrings : hasSmallOrder 0 = true ∧ hasSmallOrder (1 <<< 255) = true := by decide +kernel

end Sys2Proof.Tests
end

/-! PROOFS of the statements of the scope (spec/00_scope.md): the sign of a field element (R12), the order of the base
point (R9, R10), and what the commands with a register destination leave unchanged (R18). -/

namespace Sys2Proof.Proofs

open Sys2Proof.Machine Sys2Proof.Laws

/-! ## The sign of a field element (R12, R117 (g)) -/

/-- The canonical value of the negative of a non-zero element: p minus the element's own. -/
theorem val_neg_of_ne_zero {a : Fp} (h : a ≠ 0) : (-a).val = fieldPrime - a.val := by
  rw [Fin.val_neg, if_neg h]

theorem isNeg_eq_true_iff (a : Fp) : a.isNeg = true ↔ a.val % 2 = 1 := decide_eq_true_iff

theorem isNeg_eq_false_iff (a : Fp) : a.isNeg = false ↔ a.val % 2 = 0 := by
  rw [← Bool.not_eq_true, isNeg_eq_true_iff, Nat.mod_two_not_eq_one]

/-- Settles O33: p is odd, so a and p - a have different parities. -/
theorem negativeParity : Obligations.NegativeParity := by
  refine ⟨rfl, fun a ha => ?_⟩
  have hlt : a.val < fieldPrime := a.isLt
  have hodd : fieldPrime % 2 = 1 := rfl
  rw [isNeg_eq_true_iff, isNeg_eq_false_iff, val_neg_of_ne_zero ha]
  omega

/-! ## The order of the base point (R9, R10, R175) -/

/-- The datapath of `PADDE` on valid operands (R143). -/
theorem addExtended_spec {e f : Extended} (he : e.Valid) (hf : f.Valid) :
    (e.addExtended f).Valid ∧ (e.addExtended f).aff = e.aff.add f.aff := by
  obtain ⟨hk, hkaff⟩ := toCached_spec hf
  obtain ⟨hc, hcaff⟩ := addCached_spec he hk
  obtain ⟨hr, hraff⟩ := toExtended_spec hc
  exact ⟨hr, by rw [Extended.addExtended, hraff, hcaff, hkaff]⟩

/-- `[n mod 2^bits]` of the point of `e` by double-and-add, without a division: how a large multiple is evaluated. -/
def doubleAndAdd (e : Extended) : (bits n : Nat) → Extended
  | 0, _ => Extended.identity
  | bits + 1, n =>
    let h := doubleAndAdd e bits (n / 2)
    if n % 2 = 1 then (h.addExtended h).addExtended e else h.addExtended h

/-- Double-and-add computes the model's `[n]P`. -/
theorem doubleAndAdd_spec {e : Extended} (he : e.Valid) : ∀ bits n, n < 2 ^ bits →
    (doubleAndAdd e bits n).Valid ∧ (doubleAndAdd e bits n).aff = Affine.smul n e.aff
  | 0, n, hn => by
    obtain rfl : n = 0 := by simpa using hn
    exact extended_identity_spec
  | bits + 1, n, hn => by
    obtain ⟨hv, haff⟩ := doubleAndAdd_spec he bits (n / 2) (by rw [pow_succ] at hn; omega)
    obtain ⟨hv2, haff2⟩ := addExtended_spec hv hv
    rw [haff, ← smul_two_mul he.2.1] at haff2
    rw [doubleAndAdd]
    split_ifs with hodd
    · obtain ⟨hv3, haff3⟩ := addExtended_spec hv2 he
      refine ⟨hv3, ?_⟩
      rw [haff3, haff2, ← smul_succ, show 2 * (n / 2) + 1 = n by omega]
    · refine ⟨hv2, ?_⟩
      rw [haff2, show 2 * (n / 2) = n by omega]

/-- The evaluation that gives the order: L is below 2^253. -/
theorem doubleAndAdd_groupOrder : (doubleAndAdd Extended.base 253 groupOrder).aff = Affine.identity := by
  decide +kernel

theorem smul_groupOrder_base : Affine.smul groupOrder Affine.base = Affine.identity := by
  obtain ⟨hv, haff⟩ := ofAffine_spec onCurve_base
  have h := (doubleAndAdd_spec hv 253 groupOrder (by decide)).2
  rw [haff] at h
  exact h.symm.trans doubleAndAdd_groupOrder

theorem smul_identity : ∀ n, Affine.smul n Affine.identity = Affine.identity
  | 0 => rfl
  | n + 1 => by rw [smul_succ, smul_identity n, add_identity]

/-- Multiples of L add nothing to `[m]B`. -/
theorem smul_mod_groupOrder_base (m : Nat) :
    Affine.smul (m % groupOrder) Affine.base = Affine.smul m Affine.base := by
  have hmul : Affine.smul (m / groupOrder * groupOrder) Affine.base = Affine.identity := by
    rw [smul_mul onCurve_base, smul_groupOrder_base, smul_identity]
  calc Affine.smul (m % groupOrder) Affine.base
      = (Affine.smul (m / groupOrder * groupOrder) Affine.base).add (Affine.smul (m % groupOrder) Affine.base) := by
        rw [hmul, identity_add]
    _ = Affine.smul m Affine.base := by rw [← smul_add onCurve_base, Nat.div_add_mod']

/-- Settles O54: [L]B is evaluated, and m and m mod L differ by a multiple of L. -/
theorem baseOrder : Obligations.BaseOrder := by
  refine ⟨smul_groupOrder_base, by decide, fun m n h => ?_⟩
  rw [← smul_mod_groupOrder_base m, h, smul_mod_groupOrder_base n]

/-! ## Frames of the commands with a register destination (R18, R100, R130, R223) -/

/-- Between `s` and `t` nothing changed but the field registers `fs`, the point registers `ps`, the result code, and
STICKY by the rule of R223. -/
def RegisterFrame (s t : State) (fs : List FReg) (ps : List PReg) : Prop :=
  s.SameFields t fs ∧ s.SamePoints t ps ∧ s.SameMemory t ∧ t.cf = s.cf ∧
    t.sticky = (s.sticky || t.err.setsSticky) ∧ s.SameBus t

/-- A command that ends with a code and writes nothing. -/
theorem registerFrame_finish (s : State) (c : ResultCode) (fs : List FReg) (ps : List PReg) :
    RegisterFrame s (s.finish c) fs ps :=
  ⟨fun _ _ => rfl, fun _ _ => rfl, fun _ => rfl, rfl, rfl, rfl, rfl⟩

theorem registerFrame_writeF (s : State) (fd : FReg) (v : Fp) (c : ResultCode) :
    RegisterFrame s ((s.writeF fd v).finish c) [fd] [] :=
  ⟨fun _ hj => readF_writeF_of_ne s (mt List.mem_singleton.2 hj) v, fun _ _ => rfl, fun _ => rfl, rfl, rfl, rfl, rfl⟩

theorem registerFrame_writeP (s : State) (pd : PReg) (q : Point) (c : ResultCode) :
    RegisterFrame s ((s.writeP pd q).finish c) [] [pd] :=
  ⟨fun _ _ => rfl, fun _ hj => readP_writeP_of_ne s (mt List.mem_singleton.2 hj) q, fun _ => rfl, rfl, rfl, rfl, rfl⟩

theorem registerFrame_emptyP (s : State) (pd : PReg) (c : ResultCode) :
    RegisterFrame s ((s.emptyP pd).finish c) [] [pd] :=
  ⟨fun _ _ => rfl, fun _ hj => readP_emptyP_of_ne s (mt List.mem_singleton.2 hj), fun _ => rfl, rfl, rfl, rfl, rfl⟩

section OperandForms

variable {s t : State} {fd : FReg} {pd : PReg}

/-- What holds of the next state an answer has, holds of every next state it is said to have: how the `_cases` lemma of
an operand form is used. -/
theorem of_next {a : Answer} {P : State → Prop} (ha : ∃ t, a = .next t ∧ P t) (h : a = .next t) : P t := by
  obtain ⟨t', h', hP⟩ := ha
  cases h'.symm.trans h
  exact hP

/-! ### Operand forms with a field register destination -/

theorem done_writeF_frame {v : Fp} (h : (s.writeF fd v).done = .next t) : RegisterFrame s t [fd] [] := by
  cases h
  exact registerFrame_writeF ..

theorem unaryF_frame {fs : FReg} {op : Fp → Fp} (h : unaryF fd fs op s = .next t) : RegisterFrame s t [fd] [] := by
  obtain ⟨-, rfl⟩ | ⟨a, -, rfl⟩ := of_next (unaryF_cases op) h
  · exact registerFrame_finish ..
  · exact registerFrame_writeF ..

theorem binaryF_frame {fs1 fs2 : FReg} {op : Fp → Fp → Fp} (h : binaryF fd fs1 fs2 op s = .next t) :
    RegisterFrame s t [fd] [] := by
  obtain ⟨-, rfl⟩ | ⟨a, b, -, -, rfl⟩ := of_next (binaryF_cases op) h
  · exact registerFrame_finish ..
  · exact registerFrame_writeF ..

theorem extractP_frame {ps : PReg} {op : Point → Option Fp} (h : extractP fd ps op s = .next t) :
    RegisterFrame s t [fd] [] := by
  obtain ⟨-, rfl⟩ | ⟨q, -, -, rfl⟩ | ⟨q, v, -, -, rfl⟩ := of_next (extractP_cases op) h
  · exact registerFrame_finish ..
  · exact registerFrame_finish ..
  · exact registerFrame_writeF ..

/-! ### Operand forms with a point register destination -/

theorem done_writeP_frame {q : Point} (h : (s.writeP pd q).done = .next t) : RegisterFrame s t [] [pd] := by
  cases h
  exact registerFrame_writeP ..

theorem unaryP_frame {ps : PReg} {op : Point → Option Point} (h : unaryP pd ps op s = .next t) :
    RegisterFrame s t [] [pd] := by
  obtain ⟨-, rfl⟩ | ⟨q, -, -, rfl⟩ | ⟨q, r, -, -, rfl⟩ := of_next (unaryP_cases op) h
  · exact registerFrame_finish ..
  · exact registerFrame_finish ..
  · exact registerFrame_writeP ..

theorem binaryP_frame {ps1 ps2 : PReg} {op : Point → Point → Option Point} (h : binaryP pd ps1 ps2 op s = .next t) :
    RegisterFrame s t [] [pd] := by
  obtain ⟨-, rfl⟩ | ⟨q1, q2, -, -, -, rfl⟩ | ⟨q1, q2, r, -, -, -, rfl⟩ := of_next (binaryP_cases op) h
  · exact registerFrame_finish ..
  · exact registerFrame_finish ..
  · exact registerFrame_writeP ..

/-- The one form whose failure writes its destination: DECODE makes it Empty (R141). -/
theorem decodeP_frame {bs : BReg} {op : Bytes32 → Option Point} (h : decodeP pd bs op s = .next t) :
    RegisterFrame s t [] [pd] := by
  obtain ⟨-, rfl⟩ | ⟨r, -, rfl⟩ := of_next (decodeP_cases op) h
  · exact registerFrame_emptyP ..
  · exact registerFrame_writeP ..

theorem scalarP_frame {bs : BReg} {op : Nat → Option Point} (h : scalarP pd bs op s = .next t) :
    RegisterFrame s t [] [pd] := by
  obtain ⟨-, rfl⟩ | ⟨r, -, rfl⟩ := of_next (scalarP_cases op) h
  · exact registerFrame_finish ..
  · exact registerFrame_writeP ..

end OperandForms

/-- Settles O55: each of the 14 commands is an operand form with a field register destination. -/
theorem frameFieldRegister : Obligations.FrameFieldRegister := by
  intro i fd s t hi h
  rcases hi with rfl | rfl | ⟨a, rfl⟩ | ⟨a, b, rfl⟩ | ⟨a, b, rfl⟩ | ⟨a, rfl⟩ | ⟨a, b, rfl⟩ | ⟨a, rfl⟩ | ⟨a, rfl⟩ |
    ⟨a, rfl⟩ | ⟨a, rfl⟩ | ⟨a, b, rfl⟩ | ⟨b, rfl⟩ | ⟨p, k, rfl⟩ <;>
    simp only [exec, execFzero, execFone, execFmov, execFadd, execFsub, execFneg, execFmul, execFsq, execFsq2, execFinv,
      execFcneg, execFcsel, execFdec, execPgetc] at h
  · exact done_writeF_frame h -- FZERO
  · exact done_writeF_frame h -- FONE
  · exact unaryF_frame h -- FMOV
  · exact binaryF_frame h -- FADD
  · exact binaryF_frame h -- FSUB
  · exact unaryF_frame h -- FNEG
  · exact binaryF_frame h -- FMUL
  · exact unaryF_frame h -- FSQ
  · exact unaryF_frame h -- FSQ2
  · exact unaryF_frame h -- FINV
  · exact unaryF_frame h -- FCNEG
  · exact binaryF_frame h -- FCSEL
  · exact done_writeF_frame h -- FDEC
  · exact extractP_frame h -- PGETC

/-- Settles O56: each of the 13 commands is an operand form with a point register destination. -/
theorem framePointRegister : Obligations.FramePointRegister := by
  intro i pd s t hi h
  rcases hi with rfl | rfl | ⟨a, rfl⟩ | ⟨a, rfl⟩ | ⟨a, b, rfl⟩ | ⟨a, b, rfl⟩ | ⟨a, rfl⟩ | ⟨a, v, rfl⟩ | ⟨b, rfl⟩ |
    ⟨b, rfl⟩ | ⟨a, b, rfl⟩ | ⟨b, rfl⟩ | ⟨a, b, rfl⟩ <;>
    simp only [exec, execPident, execPbase, execPmov, execPneg, execPadd, execPsub, execPdbl, execPcvt, execPdec,
      execPdecnv, execPadde, execSmulb, execSmulv] at h
  · exact done_writeP_frame h -- PIDENT
  · exact done_writeP_frame h -- PBASE
  · exact unaryP_frame h -- PMOV
  · exact unaryP_frame h -- PNEG
  · exact binaryP_frame h -- PADD
  · exact binaryP_frame h -- PSUB
  · exact unaryP_frame h -- PDBL
  · exact unaryP_frame h -- PCVT
  · exact decodeP_frame h -- PDEC
  · exact decodeP_frame h -- PDECNV
  · exact binaryP_frame h -- PADDE
  · exact scalarP_frame h -- SMULB
  · exact unaryP_frame h -- SMULV

end Sys2Proof.Proofs

/-! PROOFS of the statements of the state (spec/10_state.md): the invariants of point registers and memory (R33), what
a command can do to the state (R18, R26), the reset state (R37), and the STATUS word (R28). -/

namespace Sys2Proof.Proofs

open Sys2Proof.Machine Sys2Proof.Laws

/-! ## The group datapaths keep R33 -/

theorem double?_valid {q r : Point} (hq : q.Valid) (h : q.double? = some r) : r.Valid := by
  cases q with
  | extended e => cases h; exact (double_spec (extended_toProjective_spec hq).1).1
  | projective p => cases h; exact (double_spec hq).1
  | completed c => cases h
  | cached k => cases h

theorem negate_valid {q : Point} (hq : q.Valid) : q.negate.Valid := by
  cases q with
  | extended e => exact (extended_negate_spec hq).1
  | projective p => exact (projective_negate_spec hq).1
  | completed c => exact (completed_negate_spec hq).1
  | cached k => exact (cached_negate_spec hq).1

theorem add?_valid {q1 q2 r : Point} (h1 : q1.Valid) (h2 : q2.Valid) (h : q1.add? q2 = some r) : r.Valid := by
  unfold Point.add? at h
  split at h
  · cases h; exact (addCached_spec h1 h2).1
  · cases h

theorem sub?_valid {q1 q2 r : Point} (h1 : q1.Valid) (h2 : q2.Valid) (h : q1.sub? q2 = some r) : r.Valid := by
  unfold Point.sub? at h
  split at h
  · cases h; exact (subCached_spec h1 h2).1
  · cases h

theorem addExtended?_valid {q1 q2 r : Point} (h1 : q1.Valid) (h2 : q2.Valid) (h : q1.addExtended? q2 = some r) :
    r.Valid := by
  unfold Point.addExtended? at h
  split at h
  · cases h; exact (addExtended_spec h1 h2).1
  · cases h

theorem convert?_valid {v : Variant} {q r : Point} (hq : q.Valid) (h : q.convert? v = some r) : r.Valid := by
  unfold Point.convert? at h
  split at h <;> cases h
  · exact (toExtended_spec hq).1 -- Completed to Extended
  · exact (completed_toProjective_spec hq).1 -- Completed to Projective
  · exact (extended_toProjective_spec hq).1 -- Extended to Projective
  · exact (toCached_spec hq).1 -- Extended to Cached

/-! ## A decoded point is on the curve (R141, R146) -/

/-- What the schedule of R146 answers is a root: its candidate is checked before it is used. -/
theorem squareRoot?_sound {u v x : Fp} (h : squareRoot? u v = some x) : v * x * x = u := by
  have := fact_prime
  unfold squareRoot? at h
  generalize rootCandidate u v = y at h
  apply toZ_injective
  simp only at h
  split_ifs at h with h1 h2 <;> cases h
  · have h1 := congrArg Laws.toZ h1
    simp only [toZ_sub, toZ_mul, toZ_zero] at h1 ⊢
    linear_combination h1
  · have hi := congrArg Laws.toZ sqrtMinusOne_sq
    have h2 := congrArg Laws.toZ h2
    simp only [toZ_mul, toZ_neg, toZ_one] at hi
    simp only [toZ_add, toZ_mul, toZ_zero] at h2 ⊢
    linear_combination Laws.toZ v * Laws.toZ y ^ 2 * hi - h2

/-- The equation of R141 is the curve's. -/
theorem onCurve_of_root {x y : Fp} (h : decodeV y * x * x = decodeU y) : Affine.OnCurve ⟨x, y⟩ := by
  have := fact_prime
  have h := congrArg Laws.toZ h
  simp only [decodeU, decodeV, toZ_mul, toZ_add, toZ_sub, toZ_one] at h
  rw [onCurve_iff, Edwards.Curve]
  linear_combination -h

theorem decodePoint?_onCurve {b : Bytes32} {a : Affine} (h : decodePoint? b = some a) : a.OnCurve := by
  unfold decodePoint? at h
  simp only at h
  split at h
  · cases h
  · next x hx =>
    obtain rfl := Option.some.inj h
    have hxy := onCurve_of_root (squareRoot?_sound hx)
    split_ifs
    · exact hxy
    · simpa only [Affine.neg] using onCurve_neg hxy

theorem extended_base_valid : Extended.base.Valid := by
  rw [Extended.base]
  exact (ofAffine_spec onCurve_base).1

/-! ## The scalar multiplications keep R33 (R172, R174, R176) -/

theorem addStep_spec {h : Extended} {k : Cached} (hh : h.Valid) (hk : k.Valid) :
    (addStep h k).Valid ∧ (addStep h k).aff = h.aff.add k.aff := by
  obtain ⟨hc, hcaff⟩ := addCached_spec hh hk
  obtain ⟨he, heaff⟩ := toExtended_spec hc
  exact ⟨he, heaff.trans hcaff⟩

/-- The doubling step inside `times16`. -/
theorem double_toProjective_spec {q : Projective} (hq : q.Valid) :
    q.double.toProjective.Valid ∧ q.double.toProjective.aff = q.aff.add q.aff := by
  obtain ⟨hc, hcaff⟩ := double_spec hq
  obtain ⟨hp, hpaff⟩ := completed_toProjective_spec hc
  exact ⟨hp, hpaff.trans hcaff⟩

theorem times16_valid {h : Extended} (hh : h.Valid) : (times16 h).Valid := by
  have h1 := (double_toProjective_spec (extended_toProjective_spec hh).1).1
  have h2 := (double_toProjective_spec h1).1
  have h3 := (double_toProjective_spec h2).1
  exact (toExtended_spec (double_spec h3).1).1

theorem tableEntry_valid {i j : Nat} (hi : i < 32) (hj : j < 8) : (tableEntry i j).Valid := by
  rw [tableEntry_eq hi hj]
  exact (cached_ofAffine_spec (onCurve_smul onCurve_base _)).1

/-- Whatever the digit: the selection starts from the identity and replaces it only by entries of the row. -/
theorem select_valid {i : Nat} (hi : i < 32) (b : Int) : (select i b).Valid := by
  have hfold : ((List.range Config.tableCols).foldl (fun t j => if b.natAbs = j + 1 then tableEntry i j else t)
      Cached.identity).Valid := by
    refine List.foldlRecOn _ _ cached_identity_spec.1 fun t ht j hj => ?_
    split_ifs
    · exact tableEntry_valid hi (List.mem_range.1 hj)
    · exact ht
  unfold select
  simp only
  split_ifs
  · exact (cached_negate_spec hfold).1
  · exact hfold

theorem oddLoop_valid (e : List Int) {h : Extended} (hh : h.Valid) : (oddLoop e h).Valid :=
  List.foldlRecOn _ _ hh fun _ ht _ hr => (addStep_spec ht (select_valid (List.mem_range.1 hr) _)).1

theorem evenLoop_valid (e : List Int) {h : Extended} (hh : h.Valid) : (evenLoop e h).Valid :=
  List.foldlRecOn _ _ hh fun _ ht _ hr => (addStep_spec ht (select_valid (List.mem_range.1 hr) _)).1

theorem smulBase_valid (n : Nat) : (smulBase n).Valid :=
  evenLoop_valid _ (times16_valid (oddLoop_valid _ extended_identity_spec.1))

theorem smulBase?_valid {n : Nat} {r : Point} (h : smulBase? n = some r) : r.Valid := by
  unfold smulBase? at h
  split_ifs at h
  cases h
  exact smulBase_valid n

theorem multiplesFrom_valid {c : Cached} (hc : c.Valid) :
    ∀ n {e : Extended}, e.Valid → ∀ k ∈ multiplesFrom c n e, k.Valid
  | 0, _, _ => List.forall_mem_nil _
  | n + 1, _, he =>
    List.forall_mem_cons.2 ⟨(toCached_spec he).1, multiplesFrom_valid hc n (addStep_spec he hc).1⟩

theorem multiple_valid {l : List Cached} (hl : ∀ k ∈ l, k.Valid) (w : Nat) : (multiple l w).Valid := by
  rw [multiple, List.getD_eq_getElem?_getD]
  cases hw : l[w - 1]? with
  | none => rw [Option.getD_none]; exact cached_identity_spec.1
  | some k => exact hl k (List.mem_of_getElem? hw)

theorem windowStep_valid {c : List Cached} (hc : ∀ k ∈ c, k.Valid) {h : Extended} (hh : h.Valid) (w : Nat) :
    (windowStep c h w).Valid := by
  unfold windowStep
  split_ifs
  · exact times16_valid hh
  · exact (addStep_spec (times16_valid hh) (multiple_valid hc w)).1

theorem smulVar_valid {e : Extended} (he : e.Valid) (n : Nat) : (smulVar n e).Valid :=
  List.foldlRecOn _ _ extended_identity_spec.1 fun _ hh w _ =>
    windowStep_valid (multiplesFrom_valid (toCached_spec he).1 15 he) hh w

theorem smulVar?_valid {n : Nat} {q r : Point} (hq : q.Valid) (h : smulVar? n q = some r) : r.Valid := by
  cases q with
  | extended e => cases h; exact smulVar_valid hq n
  | projective p => cases h
  | completed c => cases h
  | cached k => cases h

/-! ## What a command can do to the state (R18, R26, R141, R192, R220) -/

/-- The commands that set cf to a value of their own (R26); `WIPE` clears it with everything else. -/
def SetsFlag (i : Instr) : Prop :=
  (∃ fs, i = .fisneg fs) ∨ (∃ fs, i = .fisnz fs) ∨ ∃ b, i = .cset b

/-- Everything a command can make of `s`: end with a code and change nothing else, or write one destination. What it
writes to a point register satisfies R33 if the written point registers of `s` do. -/
inductive Effect (i : Instr) (s : State) : State → Prop
  | ended (c : ResultCode) : Effect i s (s.finish c)
  | fieldWritten (fd : FReg) (v : Fp) : Effect i s ((s.writeF fd v).finish .ok)
  | pointWritten (pd : PReg) (q : Point) (hq : s.PointsValid → q.Valid) : Effect i s ((s.writeP pd q).finish .ok)
  | pointEmptied (pd : PReg) : Effect i s ((s.emptyP pd).finish .decode)
  | bufferWritten (bd : BReg) (v : Bytes32) : Effect i s ((s.writeB bd v).finish .ok)
  | flagWritten (b : Bool) (hi : SetsFlag i) : Effect i s ((s.writeCf b).finish .ok)
  | wiped (hi : i = .wipe) : Effect i s (s.wipe.finish .ok)

section Effects

variable {i : Instr} {s t : State} {fd : FReg} {pd : PReg} {bd : BReg}

theorem unaryF_effect {fs : FReg} {op : Fp → Fp} (h : unaryF fd fs op s = .next t) : Effect i s t := by
  obtain ⟨-, rfl⟩ | ⟨a, -, rfl⟩ := of_next (unaryF_cases op) h
  · exact .ended _
  · exact .fieldWritten ..

theorem binaryF_effect {fs1 fs2 : FReg} {op : Fp → Fp → Fp} (h : binaryF fd fs1 fs2 op s = .next t) :
    Effect i s t := by
  obtain ⟨-, rfl⟩ | ⟨a, b, -, -, rfl⟩ := of_next (binaryF_cases op) h
  · exact .ended _
  · exact .fieldWritten ..

theorem testF_effect {fs : FReg} {op : Fp → Bool} (hi : SetsFlag i) (h : testF fs op s = .next t) : Effect i s t := by
  obtain ⟨-, rfl⟩ | ⟨a, -, rfl⟩ := of_next (testF_cases op) h
  · exact .ended _
  · exact .flagWritten _ hi

theorem storeF_effect {fs : FReg} {op : Fp → Bytes32} (h : storeF bd fs op s = .next t) : Effect i s t := by
  obtain ⟨-, rfl⟩ | ⟨a, -, rfl⟩ := of_next (storeF_cases op) h
  · exact .ended _
  · exact .bufferWritten ..

theorem unaryP_effect {ps : PReg} {op : Point → Option Point}
    (hop : ∀ {q r : Point}, q.Valid → op q = some r → r.Valid) (h : unaryP pd ps op s = .next t) : Effect i s t := by
  obtain ⟨-, rfl⟩ | ⟨q, -, -, rfl⟩ | ⟨q, r, hq, hr, rfl⟩ := of_next (unaryP_cases op) h
  · exact .ended _
  · exact .ended _
  · exact .pointWritten _ _ fun hs => hop (hs ps q hq) hr

theorem binaryP_effect {ps1 ps2 : PReg} {op : Point → Point → Option Point}
    (hop : ∀ {q1 q2 r : Point}, q1.Valid → q2.Valid → op q1 q2 = some r → r.Valid)
    (h : binaryP pd ps1 ps2 op s = .next t) : Effect i s t := by
  obtain ⟨-, rfl⟩ | ⟨q1, q2, -, -, -, rfl⟩ | ⟨q1, q2, r, h1, h2, hr, rfl⟩ := of_next (binaryP_cases op) h
  · exact .ended _
  · exact .ended _
  · exact .pointWritten _ _ fun hs => hop (hs ps1 q1 h1) (hs ps2 q2 h2) hr

theorem extractP_effect {ps : PReg} {op : Point → Option Fp} (h : extractP fd ps op s = .next t) : Effect i s t := by
  obtain ⟨-, rfl⟩ | ⟨q, -, -, rfl⟩ | ⟨q, v, -, -, rfl⟩ := of_next (extractP_cases op) h
  · exact .ended _
  · exact .ended _
  · exact .fieldWritten ..

theorem storeP_effect {ps : PReg} {op : Point → Option Bytes32} (h : storeP bd ps op s = .next t) : Effect i s t := by
  obtain ⟨-, rfl⟩ | ⟨q, -, -, rfl⟩ | ⟨q, v, -, -, rfl⟩ := of_next (storeP_cases op) h
  · exact .ended _
  · exact .ended _
  · exact .bufferWritten ..

theorem decodeP_effect {bs : BReg} {op : Bytes32 → Option Point} (hop : ∀ {b : Bytes32} {r}, op b = some r → r.Valid)
    (h : decodeP pd bs op s = .next t) : Effect i s t := by
  obtain ⟨-, rfl⟩ | ⟨r, hr, rfl⟩ := of_next (decodeP_cases op) h
  · exact .pointEmptied _
  · exact .pointWritten _ _ fun _ => hop hr

theorem scalarP_effect {bs : BReg} {op : Nat → Option Point} (hop : ∀ {n : Nat} {r}, op n = some r → r.Valid)
    (h : scalarP pd bs op s = .next t) : Effect i s t := by
  obtain ⟨-, rfl⟩ | ⟨r, hr, rfl⟩ := of_next (scalarP_cases op) h
  · exact .ended _
  · exact .pointWritten _ _ fun _ => hop hr

theorem done_writeF_effect {v : Fp} (h : (s.writeF fd v).done = .next t) : Effect i s t := by
  cases h
  exact .fieldWritten ..

theorem done_writeP_effect {q : Point} (hq : q.Valid) (h : (s.writeP pd q).done = .next t) : Effect i s t := by
  cases h
  exact .pointWritten _ _ fun _ => hq

theorem done_writeB_effect {v : Bytes32} (h : (s.writeB bd v).done = .next t) : Effect i s t := by
  cases h
  exact .bufferWritten ..

/-- The operation of `PDEC` (R141). -/
theorem decode_ofAffine_valid {b : Bytes32} {r : Point}
    (h : (decodePoint? b).map (fun a => Point.extended (Extended.ofAffine a)) = some r) : r.Valid := by
  obtain ⟨a, ha, rfl⟩ := Option.map_eq_some_iff.1 h
  exact (ofAffine_spec (decodePoint?_onCurve ha)).1

/-- The operation of `PDECNV` (R142). -/
theorem decode_ofAffine_negate_valid {b : Bytes32} {r : Point}
    (h : (decodePoint? b).map (fun a => Point.extended (Extended.ofAffine a).negate) = some r) : r.Valid := by
  obtain ⟨a, ha, rfl⟩ := Option.map_eq_some_iff.1 h
  exact (extended_negate_spec (ofAffine_spec (decodePoint?_onCurve ha)).1).1

/-- Every command has one of the effects: it is an operand form, or a write without a source register. -/
theorem exec_effect (h : exec i s = .next t) : Effect i s t := by
  cases i with
  | nop => cases h; exact .ended _
  | wipe => cases h; exact .wiped rfl
  | cset b => cases h; exact .flagWritten b (.inr (.inr ⟨b, rfl⟩))
  | bldl bd => exact done_writeB_effect h
  | fzero fd => exact done_writeF_effect h
  | fone fd => exact done_writeF_effect h
  | fmov fd fs => exact unaryF_effect h
  | fadd fd fs1 fs2 => exact binaryF_effect h
  | fsub fd fs1 fs2 => exact binaryF_effect h
  | fneg fd fs => exact unaryF_effect h
  | fmul fd fs1 fs2 => exact binaryF_effect h
  | fsq fd fs => exact unaryF_effect h
  | fsq2 fd fs => exact unaryF_effect h
  | finv fd fs => exact unaryF_effect h
  | fcneg fd fs => exact unaryF_effect h
  | fcsel fd fs1 fs2 => exact binaryF_effect h
  | fisneg fs => exact testF_effect (.inl ⟨fs, rfl⟩) h
  | fisnz fs => exact testF_effect (.inr (.inl ⟨fs, rfl⟩)) h
  | fenc bd fs => exact storeF_effect h
  | fdec fd bs => exact done_writeF_effect h
  | pident pd => exact done_writeP_effect (q := .extended Extended.identity) extended_identity_spec.1 h
  | pbase pd => exact done_writeP_effect (q := .extended Extended.base) extended_base_valid h
  | pmov pd ps => exact unaryP_effect (fun hq hr => Option.some.inj hr ▸ hq) h
  | pneg pd ps => exact unaryP_effect (fun hq hr => Option.some.inj hr ▸ negate_valid hq) h
  | padd pd ps1 ps2 => exact binaryP_effect add?_valid h
  | psub pd ps1 ps2 => exact binaryP_effect sub?_valid h
  | pdbl pd ps => exact unaryP_effect double?_valid h
  | pcvt pd ps v => exact unaryP_effect convert?_valid h
  | pgetc fd ps k => exact extractP_effect h
  | penc bd ps => exact storeP_effect h
  | pdec pd bs => simp only [exec, execPdec] at h; exact decodeP_effect decode_ofAffine_valid h
  | pdecnv pd bs => simp only [exec, execPdecnv] at h; exact decodeP_effect decode_ofAffine_negate_valid h
  | padde pd ps1 ps2 => exact binaryP_effect addExtended?_valid h
  | smulb pd bs => simp only [exec, execSmulb] at h; exact scalarP_effect smulBase?_valid h
  | smulv pd ps bs => simp only [exec, execSmulv] at h; exact unaryP_effect smulVar?_valid h

end Effects

/-! ## The invariant (R33, R144) -/

section Invariant

variable {s t : State}

/-- The invariant speaks of memory and of the point registers alone. -/
theorem inv_congr (h : s.Inv) (hmem : t.mem = s.mem) (hpoints : ∀ j, t.readP j = s.readP j) : t.Inv :=
  ⟨⟨hmem ▸ h.mem.1, hmem ▸ h.mem.2⟩, fun j q hq => h.points j q (hpoints j ▸ hq)⟩

theorem inv_finish (c : ResultCode) (h : s.Inv) : (s.finish c).Inv := inv_congr h rfl fun _ => rfl

theorem inv_writeP (pd : PReg) {q : Point} (hq : q.Valid) (h : s.Inv) : (s.writeP pd q).Inv := by
  refine ⟨h.mem, fun j r hr => ?_⟩
  rw [readP_writeP] at hr
  split_ifs at hr
  · exact Option.some.inj hr ▸ hq
  · exact h.points j r hr

theorem inv_emptyP (pd : PReg) (h : s.Inv) : (s.emptyP pd).Inv := by
  refine ⟨h.mem, fun j r hr => ?_⟩
  rw [readP_emptyP] at hr
  split_ifs at hr
  exact h.points j r hr

theorem inv_writeB (bd : BReg) (v : Bytes32) (h : s.Inv) : (s.writeB bd v).Inv :=
  ⟨⟨wf_writeB h.mem.1 bd v, inBuffers_writeB h.mem.2 bd v⟩,
    fun j q hq => h.points j q ((writeB_readP s bd v j).symm.trans hq)⟩

/-- A state with nothing stored and no point register written. -/
theorem inv_of_empty (hmem : s.mem = []) (hpoints : ∀ j, s.readP j = none) : s.Inv :=
  ⟨⟨hmem ▸ rfl, hmem ▸ rfl⟩, fun j _ hq => nomatch (hpoints j).symm.trans hq⟩

theorem inv_of_effect {i : Instr} (he : Effect i s t) (h : s.Inv) : t.Inv := by
  cases he with
  | ended c => exact inv_finish c h
  | fieldWritten fd v => exact inv_congr h rfl fun _ => rfl
  | pointWritten pd q hq => exact inv_finish _ (inv_writeP pd (hq h.points) h)
  | pointEmptied pd => exact inv_finish _ (inv_emptyP pd h)
  | bufferWritten bd v => exact inv_finish _ (inv_writeB bd v h)
  | flagWritten b _ => exact inv_congr h rfl fun _ => rfl
  | wiped _ => exact inv_finish _ (inv_of_empty rfl (wipe_readP s))

theorem inv_runCommand {w : Word} (h : s.Inv) (ht : runCommand w s = .next t) : t.Inv := by
  obtain ⟨i, -, hrun⟩ | ⟨r, -, hrun⟩ := runCommand_cases (s := s) w
  · exact inv_of_effect (exec_effect (hrun ▸ ht)) h
  · cases hrun.symm.trans ht
    exact inv_finish _ h

theorem inv_memWrite {addr n : Nat} {v : Word} (hend : addr + n ≤ Config.windowBytes) (h : s.Inv)
    (ht : memWrite s addr n v = .next t) : t.Inv := by
  obtain ⟨hbase, hw⟩ | ⟨-, -, hw⟩ | ⟨-, -, hw⟩ := memWrite_cases (s := s) addr n v
  · cases hw.symm.trans ht -- buffer bytes
    exact ⟨⟨wf_writeLE n h.mem.1 _ _, inBuffers_writeLE n h.mem.2 hbase hend _⟩, h.points⟩
  · exact inv_runCommand h (hw.symm.trans ht) -- CMD
  · cases hw.symm.trans ht -- ignored
    exact h

end Invariant

/-- Settles O49: at reset nothing is stored and no point register is written. -/
theorem resetInv : Obligations.ResetInv := inv_of_empty rfl reset_readP

/-- Settles O48, by the four things a step can do: nothing, a read, a write, a reset. -/
theorem stepKeepsInv : Obligations.StepKeepsInv := by
  intro s t hs h
  obtain ⟨-, rfl⟩ | ⟨a, rest, -, hcase⟩ := step_next h
  · exact hs
  · have hrest : State.Inv { s with pending := rest } := inv_congr hs rfl fun _ => rfl
    obtain ⟨addr, n, -, -, -, -, rfl⟩ | ⟨addr, n, v, -, -, hend, -, hw⟩ | ⟨-, rfl⟩ := hcase
    · exact inv_congr hs rfl fun _ => rfl
    · exact inv_memWrite hend hrest hw
    · exact inv_of_empty rfl (resetEvent_readP _)

/-! ## The commands that only set cf (R26, R113, R114, R191, R193) -/

theorem testF_flag {fs : FReg} {op : Fp → Bool} {s t : State} (h : testF fs op s = .next t) :
    ∃ b c, t = (s.writeCf b).finish c := by
  obtain ⟨-, rfl⟩ | ⟨a, -, rfl⟩ := of_next (testF_cases op) h
  · exact ⟨s.cf, .uninit, rfl⟩
  · exact ⟨op a, .ok, rfl⟩

/-- `FISNEG`, `FISNZ`, `CSET` and `NOP` write cf and a result code; `NOP` writes cf as it was. -/
theorem exec_flagCommand {i : Instr} {s t : State}
    (hi : (∃ a, i = .fisneg a) ∨ (∃ a, i = .fisnz a) ∨ (∃ b, i = .cset b) ∨ i = .nop) (h : exec i s = .next t) :
    ∃ b c, t = (s.writeCf b).finish c ∧ (i = .nop → b = s.cf) := by
  obtain ⟨fs, rfl⟩ | ⟨fs, rfl⟩ | ⟨b, rfl⟩ | rfl := hi
  · obtain ⟨b, c, ht⟩ := testF_flag h
    exact ⟨b, c, ht, nofun⟩
  · obtain ⟨b, c, ht⟩ := testF_flag h
    exact ⟨b, c, ht, nofun⟩
  · cases h
    exact ⟨b, .ok, rfl, nofun⟩
  · cases h
    exact ⟨s.cf, .ok, rfl, fun _ => rfl⟩

/-- Settles O58: a write of cf and a result code touch no register, no byte and nothing of the bus. -/
theorem frameFlag : Obligations.FrameFlag := by
  intro i s t hi h
  obtain ⟨b, c, rfl, hnop⟩ := exec_flagCommand hi h
  exact ⟨fun _ _ => rfl, fun _ _ => rfl, fun _ => rfl, hnop, rfl, rfl, rfl⟩

/-! ## The STATUS register (R28, R55) -/

/-- The fields of the STATUS word, over all 64 values of ERR, STICKY and cf. -/
theorem status_fields (s : State) : s.status.getLsbD 0 = s.cf ∧ s.status.getLsbD 1 = s.sticky ∧
    s.status.extractLsb' 2 2 = 0 ∧ s.status.extractLsb' 4 4 = s.err.number ∧ s.status.extractLsb' 8 24 = 0 := by
  rw [State.status]
  generalize s.err.number = err
  generalize s.sticky = sticky
  generalize s.cf = cf
  decide +revert

/-- Bytes that all read as 0 make the value 0. -/
theorem memReadFrom_eq_zero {s : State} {addr n : Nat}
    (h : ∀ off, addr ≤ off → off < addr + n → windowByte s addr n off = 0) : ∀ j ≤ n, memReadFrom s addr n j = 0
  | 0, _ => rfl
  | j + 1, hj => by
    rw [memReadFrom, h _ (by omega) (by omega), memReadFrom_eq_zero h j (by omega)]
    rfl

/-- Below the buffers only a 4-byte read of STATUS gives anything but 0 (R52). -/
theorem memRead_eq_zero {s : State} {addr n : Nat} (hend : addr + n ≤ Config.bufferBase)
    (hstatus : ¬ (n = 4 ∧ addr = Config.statusOffset)) : memRead s addr n = 0 := by
  have hbyte : ∀ off, addr ≤ off → off < addr + n → windowByte s addr n off = 0 := by
    intro off _ hoff
    rw [windowByte, if_neg (by omega), if_neg hstatus]
  rw [memRead, memReadFrom_eq_zero hbyte n le_rfl]
  rfl

/-- A 4-byte read of STATUS collects the four bytes of the STATUS word, least significant first. -/
theorem memReadFrom_status (s : State) : memReadFrom s Config.statusOffset 4 4 =
    s.status.toNat % 256 + 256 * (s.status.toNat / 256 % 256 +
      256 * (s.status.toNat / 65536 % 256 + 256 * (s.status.toNat / 16777216 % 256))) := by
  simp [memReadFrom, windowByte, Config.statusOffset, Config.bufferBase, BitVec.extractLsb'_toNat,
    Nat.shiftRight_eq_div_pow]

theorem memRead_status (s : State) : memRead s Config.statusOffset 4 = s.status := by
  apply BitVec.eq_of_toNat_eq
  have hlt : s.status.toNat < 2 ^ 32 := s.status.isLt
  rw [memRead, BitVec.toNat_ofNat, memReadFrom_status]
  omega

/-- A write below the buffers that is no command is ignored (R53, R55). -/
theorem memWrite_ignored {s : State} {addr n : Nat} (v : Word) (hbase : addr < Config.bufferBase)
    (hcmd : ¬ (addr = Config.cmdOffset ∧ n = 4)) : memWrite s addr n v = .next s := by
  rw [memWrite, if_neg (by omega), if_neg hcmd]

/-- A 4-byte write to CMD is a command (R54). -/
theorem hostAccess_writeCmd (s : State) (w : Word) :
    hostAccess (.write Config.cmdOffset 4 w) s = runCommand w s := by
  rw [hostAccess, guardAccess_defined _ (by decide) (by decide) (by decide), memWrite, if_neg (by decide),
    if_pos (by decide)]

theorem errNumber_le (c : ResultCode) : c.number.toNat ≤ 5 := by
  cases c <;> decide

/-- Settles O9: the fields of the STATUS word, and what each access to CMD and STATUS does. -/
theorem statusRegister : Obligations.StatusRegister := by
  refine ⟨memRead_status, status_fields, fun s => errNumber_le s.err, rfl, rfl, rfl, rfl, rfl, rfl, ?_, ?_, ?_,
    hostAccess_writeCmd⟩
  · intro s addr n hend
    exact memRead_eq_zero (by simp only [Config.bufferBase]; omega) (by simp only [Config.statusOffset]; omega)
  · intro s addr n hn _ hend
    exact memRead_eq_zero (by simp only [Config.bufferBase]; omega) (by omega)
  · intro s addr n v hn halign haddr hend
    rw [hostAccess, guardAccess_defined _ hn (by simp only [Config.windowBytes]; omega) halign]
    exact memWrite_ignored v (by simp only [Config.bufferBase]; omega) (by simp only [Config.cmdOffset]; omega)

/-! ## The state after reset (R37) -/

/-- Settles O7: every register and buffer reads as reset leaves it, and so does STATUS. -/
theorem resetState : Obligations.ResetState :=
  ⟨reset_readF, reset_readP, reset_readB, rfl, rfl, rfl, (memRead_status State.reset).trans (by decide)⟩

/-! ## The condition flag (R26) -/

section Flag

variable {i : Instr} {s t : State}

/-- What a command other than `FISNEG`, `FISNZ`, `CSET` and `WIPE` leaves of cf, and a command that does not end with
OK. -/
theorem cf_of_effect (he : Effect i s t) (hi : t.err ≠ .ok ∨ (¬ SetsFlag i ∧ i ≠ .wipe)) : t.cf = s.cf := by
  cases he with
  | ended c => rfl
  | fieldWritten fd v => rfl
  | pointWritten pd q hq => rfl
  | pointEmptied pd => rfl
  | bufferWritten bd v => rw [finish_cf, writeB_cf]
  | flagWritten b hset => exact (hi.resolve_left fun herr => herr rfl).1.elim hset
  | wiped hwipe => exact absurd hwipe (hi.resolve_left fun herr => herr rfl).2

theorem cf_of_fisneg {fs : FReg} {a : Fp} (ha : s.readF fs = some a) (h : exec (.fisneg fs) s = .next t) :
    t.cf = decide (a.val % 2 = 1) := by
  cases (testF_written negativeFlag ha).symm.trans h
  rfl

theorem cf_of_fisnz {fs : FReg} {a : Fp} (ha : s.readF fs = some a) (h : exec (.fisnz fs) s = .next t) :
    t.cf = decide (a.val ≠ 0) := by
  cases (testF_written nonzeroFlag ha).symm.trans h
  exact decide_eq_decide.2 (Fin.val_ne_zero_iff).symm

/-! ### Noninterference: another cf before changes at most cf after -/

variable {b : Bool} {fd : FReg} {pd : PReg} {bd : BReg}

theorem writeB_finish_writeCf (v : Bytes32) (c : ResultCode) :
    ((s.writeCf b).writeB bd v).finish c = ((s.writeB bd v).finish c).writeCf b := by
  simp only [State.writeB, State.writeCf, State.finish]

theorem done_writeB_writeCf {v : Bytes32} (h : (s.writeB bd v).done = .next t) :
    ∃ c, ((s.writeCf b).writeB bd v).done = .next (t.writeCf c) := by
  rw [done_eq] at h
  cases h
  exact ⟨b, by rw [done_eq, writeB_finish_writeCf]⟩

theorem unaryF_writeCf {fs : FReg} {op : Fp → Fp} (h : unaryF fd fs op s = .next t) :
    ∃ c, unaryF fd fs op (s.writeCf b) = .next (t.writeCf c) := by
  obtain ⟨ha, rfl⟩ | ⟨a, ha, rfl⟩ := of_next (unaryF_cases op) h
  · exact ⟨b, unaryF_empty op ha⟩
  · exact ⟨b, unaryF_written op ha⟩

theorem binaryF_writeCf {fs1 fs2 : FReg} {op : Fp → Fp → Fp} (h : binaryF fd fs1 fs2 op s = .next t) :
    ∃ c, binaryF fd fs1 fs2 op (s.writeCf b) = .next (t.writeCf c) := by
  obtain ⟨ha, rfl⟩ | ⟨a1, a2, h1, h2, rfl⟩ := of_next (binaryF_cases op) h
  · exact ⟨b, binaryF_empty op ha⟩
  · exact ⟨b, binaryF_written op h1 h2⟩

theorem testF_writeCf {fs : FReg} {op : Fp → Bool} (h : testF fs op s = .next t) :
    ∃ c, testF fs op (s.writeCf b) = .next (t.writeCf c) := by
  obtain ⟨ha, rfl⟩ | ⟨a, ha, rfl⟩ := of_next (testF_cases op) h
  · exact ⟨b, testF_empty op ha⟩
  · exact ⟨op a, testF_written op ha⟩

theorem storeF_writeCf {fs : FReg} {op : Fp → Bytes32} (h : storeF bd fs op s = .next t) :
    ∃ c, storeF bd fs op (s.writeCf b) = .next (t.writeCf c) := by
  obtain ⟨ha, rfl⟩ | ⟨a, ha, rfl⟩ := of_next (storeF_cases op) h
  · exact ⟨b, storeF_empty op ha⟩
  · exact ⟨b, by rw [storeF_written op (s := s.writeCf b) ha, writeB_finish_writeCf]⟩

theorem unaryP_writeCf {ps : PReg} {op : Point → Option Point} (h : unaryP pd ps op s = .next t) :
    ∃ c, unaryP pd ps op (s.writeCf b) = .next (t.writeCf c) := by
  obtain ⟨hq, rfl⟩ | ⟨q, hq, hr, rfl⟩ | ⟨q, r, hq, hr, rfl⟩ := of_next (unaryP_cases op) h
  · exact ⟨b, unaryP_empty op hq⟩
  · exact ⟨b, unaryP_tag op hq hr⟩
  · exact ⟨b, unaryP_written op hq hr⟩

theorem binaryP_writeCf {ps1 ps2 : PReg} {op : Point → Point → Option Point}
    (h : binaryP pd ps1 ps2 op s = .next t) : ∃ c, binaryP pd ps1 ps2 op (s.writeCf b) = .next (t.writeCf c) := by
  obtain ⟨hq, rfl⟩ | ⟨q1, q2, h1, h2, hr, rfl⟩ | ⟨q1, q2, r, h1, h2, hr, rfl⟩ := of_next (binaryP_cases op) h
  · exact ⟨b, binaryP_empty op hq⟩
  · exact ⟨b, binaryP_tag op h1 h2 hr⟩
  · exact ⟨b, binaryP_written op h1 h2 hr⟩

theorem extractP_writeCf {ps : PReg} {op : Point → Option Fp} (h : extractP fd ps op s = .next t) :
    ∃ c, extractP fd ps op (s.writeCf b) = .next (t.writeCf c) := by
  obtain ⟨hq, rfl⟩ | ⟨q, hq, hv, rfl⟩ | ⟨q, v, hq, hv, rfl⟩ := of_next (extractP_cases op) h
  · exact ⟨b, extractP_empty op hq⟩
  · exact ⟨b, extractP_tag op hq hv⟩
  · exact ⟨b, extractP_written op hq hv⟩

theorem storeP_writeCf {ps : PReg} {op : Point → Option Bytes32} (h : storeP bd ps op s = .next t) :
    ∃ c, storeP bd ps op (s.writeCf b) = .next (t.writeCf c) := by
  obtain ⟨hq, rfl⟩ | ⟨q, hq, hv, rfl⟩ | ⟨q, v, hq, hv, rfl⟩ := of_next (storeP_cases op) h
  · exact ⟨b, storeP_empty op hq⟩
  · exact ⟨b, storeP_tag op hq hv⟩
  · exact ⟨b, by rw [storeP_written op (s := s.writeCf b) hq hv, writeB_finish_writeCf]⟩

theorem decodeP_writeCf {bs : BReg} {op : Bytes32 → Option Point} (h : decodeP pd bs op s = .next t) :
    ∃ c, decodeP pd bs op (s.writeCf b) = .next (t.writeCf c) := by
  obtain ⟨hr, rfl⟩ | ⟨r, hr, rfl⟩ := of_next (decodeP_cases op) h
  · exact ⟨b, decodeP_fail op hr⟩
  · exact ⟨b, decodeP_written op hr⟩

theorem scalarP_writeCf {bs : BReg} {op : Nat → Option Point} (h : scalarP pd bs op s = .next t) :
    ∃ c, scalarP pd bs op (s.writeCf b) = .next (t.writeCf c) := by
  obtain ⟨hr, rfl⟩ | ⟨r, hr, rfl⟩ := of_next (scalarP_cases op) h
  · exact ⟨b, scalarP_range op hr⟩
  · exact ⟨b, scalarP_written op hr⟩

/-- The operation of every operand form but those of `FCNEG` and `FCSEL` is fixed by the command and the buffers. -/
theorem exec_writeCf (hcneg : ∀ fd fs, i ≠ .fcneg fd fs) (hcsel : ∀ fd fs1 fs2, i ≠ .fcsel fd fs1 fs2)
    (h : exec i s = .next t) : ∃ c, exec i (s.writeCf b) = .next (t.writeCf c) := by
  cases i with
  | nop => cases h; exact ⟨b, rfl⟩
  | wipe => cases h; exact ⟨false, rfl⟩
  | cset i => cases h; exact ⟨i, rfl⟩
  | bldl bd => exact done_writeB_writeCf h
  | fzero fd => cases h; exact ⟨b, rfl⟩
  | fone fd => cases h; exact ⟨b, rfl⟩
  | fmov fd fs => exact unaryF_writeCf h
  | fadd fd fs1 fs2 => exact binaryF_writeCf h
  | fsub fd fs1 fs2 => exact binaryF_writeCf h
  | fneg fd fs => exact unaryF_writeCf h
  | fmul fd fs1 fs2 => exact binaryF_writeCf h
  | fsq fd fs => exact unaryF_writeCf h
  | fsq2 fd fs => exact unaryF_writeCf h
  | finv fd fs => exact unaryF_writeCf h
  | fcneg fd fs => exact absurd rfl (hcneg fd fs)
  | fcsel fd fs1 fs2 => exact absurd rfl (hcsel fd fs1 fs2)
  | fisneg fs => exact testF_writeCf h
  | fisnz fs => exact testF_writeCf h
  | fenc bd fs => exact storeF_writeCf h
  | fdec fd bs => cases h; exact ⟨b, rfl⟩
  | pident pd => cases h; exact ⟨b, rfl⟩
  | pbase pd => cases h; exact ⟨b, rfl⟩
  | pmov pd ps => simp only [exec, execPmov] at h ⊢; exact unaryP_writeCf h
  | pneg pd ps => simp only [exec, execPneg] at h ⊢; exact unaryP_writeCf h
  | padd pd ps1 ps2 => exact binaryP_writeCf h
  | psub pd ps1 ps2 => exact binaryP_writeCf h
  | pdbl pd ps => exact unaryP_writeCf h
  | pcvt pd ps v => exact unaryP_writeCf h
  | pgetc fd ps k => exact extractP_writeCf h
  | penc bd ps => exact storeP_writeCf h
  | pdec pd bs => simp only [exec, execPdec] at h ⊢; exact decodeP_writeCf h
  | pdecnv pd bs => simp only [exec, execPdecnv] at h ⊢; exact decodeP_writeCf h
  | padde pd ps1 ps2 => exact binaryP_writeCf h
  | smulb pd bs => simp only [exec, execSmulb] at h ⊢; exact scalarP_writeCf h
  | smulv pd ps bs => simp only [exec, execSmulv, writeCf_readB] at h ⊢; exact unaryP_writeCf h

end Flag

/-- Settles O22: the effects of the commands give who writes cf, the operand forms who reads it. -/
theorem conditionFlag : Obligations.ConditionFlag := by
  refine ⟨fun i s t h => ⟨?_, ?_, ?_, ?_, ?_⟩, fun i s t b hcneg hcsel h => exec_writeCf hcneg hcsel h, rfl,
    fun _ => rfl, fun s => (status_fields s).1⟩
  · rintro fs a rfl ha
    exact cf_of_fisneg ha h
  · rintro fs a rfl ha
    exact cf_of_fisnz ha h
  · rintro b rfl
    cases h
    rfl
  · rintro rfl
    cases h
    rfl
  · intro hi
    refine cf_of_effect (exec_effect h) (hi.imp_right ?_)
    rintro ⟨hneg, hnz, hcset, hwipe⟩
    refine ⟨?_, hwipe⟩
    rintro (⟨fs, rfl⟩ | ⟨fs, rfl⟩ | ⟨b, rfl⟩)
    · exact hneg fs rfl
    · exact hnz fs rfl
    · exact hcset b rfl

end Sys2Proof.Proofs

/-! PROOFS of the statements of memory (spec/20_memory.md): which accesses are steps (R58), what a read of the window
returns (R52), what a write does (R53, R57), the buffers through the window (R56, R78), what a command with a buffer
destination leaves unchanged (R18), and the step that runs a command (R54, R61). -/

namespace Sys2Proof.Proofs

open Sys2Proof.Machine Sys2Proof.Laws

/-! ## Every command has a next state (R220) -/

/-- The first half of what the `_cases` lemma of an operand form says. -/
theorem next_of_cases {a : Answer} {P : State → Prop} (ha : ∃ t, a = .next t ∧ P t) : ∃ t, a = .next t :=
  ha.imp fun _ h => h.1

theorem exec_next (i : Instr) (s : State) : ∃ t, exec i s = .next t := by
  cases i with
  | nop => exact ⟨_, done_eq _⟩
  | wipe => exact ⟨_, done_eq _⟩
  | cset b => exact ⟨_, done_eq _⟩
  | bldl bd => exact ⟨_, done_eq _⟩
  | fzero fd => exact ⟨_, done_eq _⟩
  | fone fd => exact ⟨_, done_eq _⟩
  | fmov fd fs => exact next_of_cases (unaryF_cases _)
  | fadd fd fs1 fs2 => exact next_of_cases (binaryF_cases _)
  | fsub fd fs1 fs2 => exact next_of_cases (binaryF_cases _)
  | fneg fd fs => exact next_of_cases (unaryF_cases _)
  | fmul fd fs1 fs2 => exact next_of_cases (binaryF_cases _)
  | fsq fd fs => exact next_of_cases (unaryF_cases _)
  | fsq2 fd fs => exact next_of_cases (unaryF_cases _)
  | finv fd fs => exact next_of_cases (unaryF_cases _)
  | fcneg fd fs => exact next_of_cases (unaryF_cases _)
  | fcsel fd fs1 fs2 => exact next_of_cases (binaryF_cases _)
  | fisneg fs => exact next_of_cases (testF_cases _)
  | fisnz fs => exact next_of_cases (testF_cases _)
  | fenc bd fs => exact next_of_cases (storeF_cases _)
  | fdec fd bs => exact ⟨_, done_eq _⟩
  | pident pd => exact ⟨_, done_eq _⟩
  | pbase pd => exact ⟨_, done_eq _⟩
  | pmov pd ps => simp only [exec, execPmov]; exact next_of_cases (unaryP_cases _)
  | pneg pd ps => simp only [exec, execPneg]; exact next_of_cases (unaryP_cases _)
  | padd pd ps1 ps2 => exact next_of_cases (binaryP_cases _)
  | psub pd ps1 ps2 => exact next_of_cases (binaryP_cases _)
  | pdbl pd ps => exact next_of_cases (unaryP_cases _)
  | pcvt pd ps v => exact next_of_cases (unaryP_cases _)
  | pgetc fd ps k => exact next_of_cases (extractP_cases _)
  | penc bd ps => exact next_of_cases (storeP_cases _)
  | pdec pd bs => simp only [exec, execPdec]; exact next_of_cases (decodeP_cases _)
  | pdecnv pd bs => simp only [exec, execPdecnv]; exact next_of_cases (decodeP_cases _)
  | padde pd ps1 ps2 => exact next_of_cases (binaryP_cases _)
  | smulb pd bs => simp only [exec, execSmulb]; exact next_of_cases (scalarP_cases _)
  | smulv pd ps bs => simp only [exec, execSmulv]; exact next_of_cases (unaryP_cases _)

theorem runCommand_next (w : Word) (s : State) : ∃ t, runCommand w s = .next t := by
  obtain ⟨i, -, hrun⟩ | ⟨r, -, hrun⟩ := runCommand_cases (s := s) w
  · exact hrun ▸ exec_next i s
  · exact ⟨_, hrun⟩

/-! ## Which accesses are steps (R58) -/

theorem memWrite_next (s : State) (addr n : Nat) (v : Word) : ∃ t, memWrite s addr n v = .next t := by
  obtain ⟨-, hw⟩ | ⟨-, -, hw⟩ | ⟨-, -, hw⟩ := memWrite_cases (s := s) addr n v
  · exact ⟨_, hw⟩ -- buffer bytes
  · exact hw ▸ runCommand_next v s -- CMD
  · exact ⟨_, hw⟩ -- ignored

/-- An access whose effect has a next state has one itself exactly when the spec defines it. -/
theorem guardAccess_has_next_iff {addr n : Nat} {k : Answer} (hk : ∃ t, k = .next t) :
    (∃ t, guardAccess addr n k = .next t) ↔ (n = 1 ∨ n = 2 ∨ n = 4) ∧ addr % n = 0 ∧ addr + n ≤ 256 := by
  constructor
  · rintro ⟨t, ht⟩
    obtain ⟨hn, hend, halign, -⟩ := guardAccess_next ht
    exact ⟨hn, halign, hend⟩
  · rintro ⟨hn, halign, hend⟩
    rwa [guardAccess_defined k hn hend halign]

/-- Settles O12: what a read and a write do has a next state, so the guard alone decides. -/
theorem undefinedAccess : Obligations.UndefinedAccess := fun s addr n v =>
  ⟨guardAccess_has_next_iff ⟨_, rfl⟩, guardAccess_has_next_iff (memWrite_next s addr n v)⟩

/-! ## What a read of the window returns (R52) -/

/-- Byte `j` of a number held as a bit vector. -/
theorem toNat_extractByte {w : Nat} (v : BitVec w) (j : Nat) :
    (v.extractLsb' (8 * j) 8).toNat = v.toNat / 256 ^ j % 256 := by
  rw [BitVec.extractLsb'_toNat, Nat.shiftRight_eq_div_pow, pow_mul]
  rfl

theorem ofNat_div_eq_extractByte {w : Nat} (v : BitVec w) (j : Nat) :
    BitVec.ofNat 8 (v.toNat / 256 ^ j) = v.extractLsb' (8 * j) 8 :=
  BitVec.eq_of_toNat_eq (by rw [BitVec.toNat_ofNat, toNat_extractByte])

section Read

variable {s : State} {addr n : Nat}

theorem memReadFrom_lt (s : State) (addr n j : Nat) : memReadFrom s addr n j < 256 ^ j := by
  induction j with
  | zero => exact Nat.one_pos
  | succ j ih =>
    have hbyte := (windowByte s addr n (addr + (n - (j + 1)))).isLt
    rw [memReadFrom, pow_succ]
    omega

/-- Byte `i` of the number the last `j` bytes of a read make. -/
theorem memReadFrom_byte {i j : Nat} (hj : j ≤ n) (hi : i < j) :
    memReadFrom s addr n j / 256 ^ i % 256 = (windowByte s addr n (addr + (n - j) + i)).toNat := by
  induction j generalizing i with
  | zero => omega
  | succ j ih =>
    have hbyte := (windowByte s addr n (addr + (n - (j + 1)))).isLt
    rw [memReadFrom]
    cases i with
    | zero => rw [pow_zero, add_zero]; omega
    | succ i =>
      have hrest : ((windowByte s addr n (addr + (n - (j + 1)))).toNat + 256 * memReadFrom s addr n j) / 256 =
          memReadFrom s addr n j := by omega
      rw [pow_succ', ← Nat.div_div_eq_div_mul, hrest, ih (by omega) (by omega),
        show addr + (n - j) + i = addr + (n - (j + 1)) + (i + 1) by omega]

theorem memRead_toNat (hn : n ≤ 4) : (memRead s addr n).toNat = memReadFrom s addr n n := by
  rw [memRead, BitVec.toNat_ofNat]
  exact Nat.mod_eq_of_lt ((memReadFrom_lt s addr n n).trans_le (Nat.pow_le_pow_right (by decide) hn))

theorem memRead_byte {j : Nat} (hn : n ≤ 4) (hj : j < n) :
    (memRead s addr n).extractLsb' (8 * j) 8 = windowByte s addr n (addr + j) := by
  apply BitVec.eq_of_toNat_eq
  rw [toNat_extractByte, memRead_toNat hn, memReadFrom_byte le_rfl hj, Nat.sub_self, add_zero]

theorem windowByte_at (s : State) (addr n j : Nat) : windowByte s addr n (addr + j) =
    if 0x80 ≤ addr + j then s.mem.read (addr + j)
    else if n = 4 ∧ addr = 0x04 then s.status.extractLsb' (8 * j) 8
    else 0 := by
  unfold windowByte
  refine if_congr Iff.rfl rfl (ite_congr rfl ?_ fun _ => rfl)
  rintro ⟨-, rfl⟩
  rw [Nat.add_sub_cancel_left]

/-- Settles O10: byte `j` of what a read returns is the window's byte at `addr + j`. -/
theorem memReadRule : Obligations.MemReadRule := by
  intro s addr n hn halign hend
  have hn4 : n ≤ 4 := by omega
  refine ⟨memRead s addr n, guardAccess_defined _ hn hend halign, ?_, fun j hj => ?_⟩
  · rw [memRead_toNat hn4, pow_mul]
    exact memReadFrom_lt s addr n n
  · rw [memRead_byte hn4 hj, windowByte_at]

end Read

/-! ## What a write does (R53, R57) -/

theorem hostAccess_writeBuffer {addr n : Nat} (v : Word) (s : State) (hn : n = 1 ∨ n = 2 ∨ n = 4)
    (hbase : 0x80 ≤ addr) (halign : addr % n = 0) (hend : addr + n ≤ 256) :
    hostAccess (.write addr n v) s = .next { s with mem := s.mem.writeLE addr n v.toNat } := by
  rw [hostAccess, guardAccess_defined _ hn hend halign, memWrite, if_pos hbase]

/-- Settles O11: at and above 0x80 the bytes are stored; below it a write is a command or ignored. -/
theorem memWriteRule : Obligations.MemWriteRule := by
  intro s addr n v hn halign hend
  refine ⟨fun hbase hmem => ⟨_, hostAccess_writeBuffer v s hn hbase halign hend, rfl, fun x => ?_⟩, ?_,
    fun hbase hcmd => ?_⟩
  · rw [read_writeLE n hmem.1, ofNat_div_eq_extractByte]
  · rintro ⟨rfl, rfl⟩
    exact hostAccess_writeCmd s v
  · rw [hostAccess, guardAccess_defined _ hn hend halign]
    exact memWrite_ignored v hbase hcmd

/-- A store of `a + b` bytes is a store of the low `a` and one of the next `b`. -/
theorem writeLE_add (a b : Nat) (m : Memory) (x v : Nat) :
    m.writeLE x (a + b) v = (m.writeLE x a v).writeLE (x + a) b (v / 256 ^ a) := by
  induction a generalizing m x v with
  | zero => rw [Nat.zero_add, Nat.add_zero, pow_zero, Nat.div_one, Memory.writeLE]
  | succ a ih =>
    rw [show a + 1 + b = a + b + 1 by omega, Memory.writeLE, ih, Memory.writeLE, Nat.div_div_eq_div_mul, pow_succ',
      show x + 1 + a = x + (a + 1) by omega]

/-- A store of `n` bytes looks at the low `n` bytes of the number alone. -/
theorem writeLE_mod (n : Nat) (m : Memory) (x v : Nat) : m.writeLE x n (v % 256 ^ n) = m.writeLE x n v := by
  induction n generalizing m x v with
  | zero => rw [Memory.writeLE, Memory.writeLE]
  | succ n ih =>
    have hlow : BitVec.ofNat 8 (v % 256 ^ (n + 1)) = BitVec.ofNat 8 v := by
      apply BitVec.eq_of_toNat_eq
      rw [BitVec.toNat_ofNat, BitVec.toNat_ofNat]
      exact Nat.mod_mod_of_dvd v (Dvd.intro_left (256 ^ n) (pow_succ 256 n).symm)
    have hrest : v % 256 ^ (n + 1) / 256 = v / 256 % 256 ^ n := by
      rw [pow_succ', Nat.mod_mul_right_div_self]
    rw [Memory.writeLE, Memory.writeLE, hlow, hrest, ih]

/-- A store of four bytes is four stores of one byte each, least significant at the lowest offset. -/
theorem writeLE_four (m : Memory) (x v : Nat) : m.writeLE x 4 v =
    (((m.writeLE x 1 (v % 256)).writeLE (x + 1) 1 (v / 2 ^ 8 % 256)).writeLE (x + 2) 1 (v / 2 ^ 16 % 256)).writeLE
      (x + 3) 1 (v / 2 ^ 24) := by
  have hlow : ∀ (m : Memory) (x v : Nat), m.writeLE x 1 (v % 256) = m.writeLE x 1 v := writeLE_mod 1
  rw [hlow, hlow, hlow]
  simp only [Memory.writeLE, Nat.div_div_eq_div_mul, Nat.add_assoc, Nat.reduceMul, Nat.reduceAdd, Nat.reducePow]

/-- The low byte of a word shifted right by `k`, as the host masks it out. -/
theorem toNat_shift_mask (v : Word) (k : Nat) : ((v >>> k) &&& 0xFF).toNat = v.toNat / 2 ^ k % 256 := by
  rw [BitVec.toNat_and, BitVec.toNat_ushiftRight, Nat.shiftRight_eq_div_pow]
  exact Nat.and_two_pow_sub_one_eq_mod _ 8

/-- A 1-byte write to a buffer, with the memory it finds written apart from the state. -/
theorem hostAccess_writeByte {addr : Nat} (v : Word) (s : State) (m : Memory) (hbase : 0x80 ≤ addr)
    (hend : addr + 1 ≤ 256) :
    hostAccess (.write addr 1 v) { s with mem := m } = .next { s with mem := m.writeLE addr 1 v.toNat } :=
  hostAccess_writeBuffer v { s with mem := m } (.inl rfl) hbase (Nat.mod_one _) hend

/-- Settles O14: the four bytes are stored one after another either way. -/
theorem byteOrder : Obligations.ByteOrder := by
  intro s addr v hbase halign hend
  have hlow : (v &&& 0xFF).toNat = v.toNat % 256 := by simpa using toNat_shift_mask v 0
  have htop : (v >>> 24).toNat = v.toNat / 2 ^ 24 := by
    rw [BitVec.toNat_ushiftRight, Nat.shiftRight_eq_div_pow]
  refine ⟨_, _, _, _, hostAccess_writeByte _ s s.mem hbase (by omega),
    hostAccess_writeByte _ s _ (by omega) (by omega), hostAccess_writeByte _ s _ (by omega) (by omega),
    hostAccess_writeByte _ s _ (by omega) (by omega), ?_⟩
  rw [hostAccess_writeBuffer v s (.inr (.inr rfl)) hbase halign hend, writeLE_four, hlow, toNat_shift_mask,
    toNat_shift_mask, htop]

/-- A write leaves every other byte as it was, whatever form the memory has. -/
theorem read_write_of_ne {m : Memory} {x y : Nat} (v : Byte) (h : y ≠ x) : (m.write x v).read y = m.read y := by
  induction m with
  | nil =>
    rw [Memory.write]
    split_ifs with hv
    · rfl
    · exact if_neg h
  | cons c m ih =>
    obtain ⟨a, b⟩ := c
    rw [Memory.write]
    split_ifs with hlt hv hx hv
    · rfl
    · exact if_neg h
    · exact (if_neg (hx ▸ h)).symm
    · rw [Memory.read, if_neg h, Memory.read, if_neg (hx ▸ h)]
    · rw [Memory.read, Memory.read, ih]

theorem read_writeLE_outside {m : Memory} {x y n : Nat} (v : Nat) (h : y < x ∨ x + n ≤ y) :
    (m.writeLE x n v).read y = m.read y := by
  induction n generalizing m x v with
  | zero => rfl
  | succ n ih => rw [Memory.writeLE, ih _ (by omega), read_write_of_ne _ (by omega)]

/-! ## A buffer through the window (R56, R78) -/

theorem issue_eq_some {a : HostAccess} {s t : State} (h : hostAccess a s = .next t) : issue a s = some t := by
  rw [issue, h]

/-- Word `j` of a buffer is an aligned word of the window, at or above 0x80. -/
theorem bufferWord_defined (k : BReg) {j : Nat} (hj : j < 8) : 0x80 ≤ bufferOffset k + 4 * j ∧
    (bufferOffset k + 4 * j) % 4 = 0 ∧ bufferOffset k + 4 * j + 4 ≤ 256 := by
  have hk : k.val < 4 := k.isLt
  simp only [bufferOffset, Config.bufferBase, Config.bufferBytes]
  omega

/-- The writes from word `j` on store the bytes of `v` from byte `4 * j` on. -/
theorem putWords_eq (k : BReg) (v : Bytes32) {n j : Nat} (hj : j + n ≤ 8) (s : State) : putWords k v n j s =
    some { s with mem := s.mem.writeLE (bufferOffset k + 4 * j) (4 * n) (v.toNat / 256 ^ (4 * j)) } := by
  induction n generalizing j s with
  | zero => rfl
  | succ n ih =>
    obtain ⟨hbase, halign, hend⟩ := bufferWord_defined k (show j < 8 by omega)
    have hword : (v.extractLsb' (32 * j) 32).toNat = v.toNat / 256 ^ (4 * j) % 256 ^ 4 := by
      rw [BitVec.extractLsb'_toNat, Nat.shiftRight_eq_div_pow, show 32 * j = 8 * (4 * j) by omega, pow_mul]
      rfl
    rw [putWords, issue_eq_some (hostAccess_writeBuffer _ s (.inr (.inr rfl)) hbase halign hend), Option.bind_some,
      ih (by omega), hword, writeLE_mod, show 4 * (n + 1) = 4 + 4 * n by omega, writeLE_add 4, Nat.div_div_eq_div_mul,
      ← pow_add, show bufferOffset k + 4 * j + 4 = bufferOffset k + 4 * (j + 1) by omega,
      show 4 * j + 4 = 4 * (j + 1) by omega]

/-- `host.write bK, v` does what a command's write of the buffer does. -/
theorem putBuffer_eq (k : BReg) (v : Bytes32) (s : State) : putBuffer k v s = some (s.writeB k v) := by
  rw [putBuffer, putWords_eq k v (by decide), State.writeB]
  simp only [Nat.mul_zero, pow_zero, Nat.div_one, Nat.add_zero]

/-- `a + b` bytes read together are the low `a` bytes and, above them, the next `b`. -/
theorem readLE_add (m : Memory) (a b x : Nat) :
    m.readLE x (a + b) = m.readLE x a + 256 ^ a * m.readLE (x + a) b := by
  induction a generalizing x with
  | zero => rw [Nat.zero_add, Memory.readLE, pow_zero, Nat.one_mul, Nat.zero_add, Nat.add_zero]
  | succ a ih =>
    rw [show a + 1 + b = a + b + 1 by omega, Memory.readLE, ih, Memory.readLE, show x + 1 + a = x + (a + 1) by omega]
    ring

/-- A read of buffer bytes collects bytes of memory. -/
theorem memReadFrom_buffer {s : State} {addr n j : Nat} (hbase : 0x80 ≤ addr) (hj : j ≤ n) :
    memReadFrom s addr n j = s.mem.readLE (addr + (n - j)) j := by
  induction j with
  | zero => rfl
  | succ j ih =>
    rw [memReadFrom, ih (by omega), windowByte, if_pos (by simp only [Config.bufferBase]; omega), Memory.readLE,
      show addr + (n - j) = addr + (n - (j + 1)) + 1 by omega]

theorem memRead_buffer_toNat {s : State} {addr n : Nat} (hbase : 0x80 ≤ addr) (hn : n ≤ 4) :
    (memRead s addr n).toNat = s.mem.readLE addr n := by
  rw [memRead_toNat hn, memReadFrom_buffer hbase le_rfl, Nat.sub_self, Nat.add_zero]

/-- The reads from word `j` on return the bytes of the buffer from byte `4 * j` on. -/
theorem getWords_eq (k : BReg) {n j : Nat} (hj : j + n ≤ 8) (s : State) : ∃ r : Word,
    getWords k n j s = some (s.mem.readLE (bufferOffset k + 4 * j) (4 * n), { s with readData := r }) := by
  induction n generalizing j s with
  | zero => exact ⟨s.readData, rfl⟩
  | succ n ih =>
    obtain ⟨hbase, halign, hend⟩ := bufferWord_defined k (show j < 8 by omega)
    have hread : issue (.read (bufferOffset k + 4 * j) 4) s =
        some { s with readData := memRead s (bufferOffset k + 4 * j) 4 } :=
      issue_eq_some (guardAccess_defined _ (.inr (.inr rfl)) hend halign)
    obtain ⟨r, hr⟩ := ih (show j + 1 + n ≤ 8 by omega) { s with readData := memRead s (bufferOffset k + 4 * j) 4 }
    refine ⟨r, ?_⟩
    rw [getWords, hread, Option.bind_some, hr, Option.map_some, memRead_buffer_toNat hbase le_rfl,
      show 4 * (n + 1) = 4 + 4 * n by omega, readLE_add,
      show bufferOffset k + 4 * j + 4 = bufferOffset k + 4 * (j + 1) by omega, show 256 ^ 4 = 2 ^ 32 from rfl]

theorem getBuffer_eq (k : BReg) (s : State) :
    ∃ r : Word, getBuffer k s = some (s.readB k, { s with readData := r }) := by
  obtain ⟨r, hr⟩ := getWords_eq k (show 0 + 8 ≤ 8 from le_rfl) s
  exact ⟨r, by rw [getBuffer, hr]; rfl⟩

theorem writeB_sameMemoryOutside (s : State) (k : BReg) (v : Bytes32) :
    s.SameMemoryOutside (s.writeB k v) (bufferOffset k) 32 := by
  intro x hx
  rw [writeB_mem, read_writeLE_outside _ hx]

/-- Settles O15: the eight writes are the write of the buffer, and the eight reads together read its 32 bytes. -/
theorem bufferTransfer : Obligations.BufferTransfer := by
  refine ⟨fun s k v hmem => ⟨s.writeB k v, putBuffer_eq k v s, ?_, ?_, writeB_sameMemoryOutside s k v⟩,
    fun s k => ?_⟩
  · unfold State.writeB
    with_reducible rfl
  · rw [readB_writeB hmem.1, if_pos rfl]
  · obtain ⟨r, hr⟩ := getBuffer_eq k s
    exact ⟨_, hr, rfl⟩

/-! ## What a command with a buffer destination leaves unchanged (R18, R51, R223) -/

/-- Between `s` and `t` nothing changed but the buffer `bd`, the result code, and STICKY by the rule of R223. -/
def BufferFrame (s t : State) (bd : BReg) : Prop :=
  s.SameFields t [] ∧ s.SamePoints t [] ∧ s.SameMemoryOutside t (bufferOffset bd) 32 ∧ t.cf = s.cf ∧
    t.sticky = (s.sticky || t.err.setsSticky) ∧ s.SameBus t

theorem bufferFrame_finish (s : State) (c : ResultCode) (bd : BReg) : BufferFrame s (s.finish c) bd :=
  ⟨fun _ _ => rfl, fun _ _ => rfl, fun _ _ => rfl, rfl, rfl, rfl, rfl⟩

theorem bufferFrame_writeB (s : State) (bd : BReg) (v : Bytes32) (c : ResultCode) :
    BufferFrame s ((s.writeB bd v).finish c) bd := by
  refine ⟨fun j _ => ?_, fun j _ => ?_, fun x hx => ?_, ?_, ?_, ?_, ?_⟩
  · rw [finish_readF, writeB_readF]
  · rw [finish_readP, writeB_readP]
  · rw [finish_mem, writeB_sameMemoryOutside s bd v x hx]
  · rw [finish_cf, writeB_cf]
  · rw [finish_sticky, writeB_sticky, finish_err]
  · rw [finish_pending, writeB_pending]
  · rw [finish_readData, writeB_readData]

section BufferDestination

variable {s t : State} {bd : BReg}

theorem done_writeB_frame {v : Bytes32} (h : (s.writeB bd v).done = .next t) : BufferFrame s t bd := by
  cases h
  exact bufferFrame_writeB ..

theorem storeF_frame {fs : FReg} {op : Fp → Bytes32} (h : storeF bd fs op s = .next t) : BufferFrame s t bd := by
  obtain ⟨-, rfl⟩ | ⟨a, -, rfl⟩ := of_next (storeF_cases op) h
  · exact bufferFrame_finish ..
  · exact bufferFrame_writeB ..

theorem storeP_frame {ps : PReg} {op : Point → Option Bytes32} (h : storeP bd ps op s = .next t) :
    BufferFrame s t bd := by
  obtain ⟨-, rfl⟩ | ⟨q, -, -, rfl⟩ | ⟨q, v, -, -, rfl⟩ := of_next (storeP_cases op) h
  · exact bufferFrame_finish ..
  · exact bufferFrame_finish ..
  · exact bufferFrame_writeB ..

theorem exec_bufferFrame {i : Instr} (hi : i = .bldl bd ∨ (∃ a, i = .fenc bd a) ∨ ∃ p, i = .penc bd p)
    (h : exec i s = .next t) : BufferFrame s t bd := by
  obtain rfl | ⟨fs, rfl⟩ | ⟨ps, rfl⟩ := hi
  · exact done_writeB_frame h
  · exact storeF_frame h
  · exact storeP_frame h

end BufferDestination

/-- Settles O57: each of the three commands is an operand form with a buffer destination. -/
theorem frameBuffer : Obligations.FrameBuffer := by
  intro i bd s t hi h
  obtain ⟨hfields, hpoints, hmem, hrest⟩ := exec_bufferFrame hi h
  exact ⟨hfields, hpoints, fun a ha => ha ▸ hmem, hrest⟩

/-! ## The step that runs a command (R54, R61) -/

theorem step_of_pending {s : State} {a : HostAccess} {rest : List HostAccess} (h : s.pending = a :: rest) :
    step s = hostAccess a { s with pending := rest } := by
  unfold step
  rw [h]

theorem step_of_idle {s : State} (h : s.pending = []) : step s = .next s := by
  unfold step
  rw [h]

theorem runCommand_of_ok {w : Word} {i : Instr} (h : decode w = .ok i) (s : State) : runCommand w s = exec i s := by
  rw [runCommand, h]

theorem runCommand_of_error {w : Word} {r : Reject} (h : decode w = .error r) (s : State) :
    runCommand w s = .next { s with err := .illegal, sticky := true } := by
  rw [runCommand, h, raise_eq, State.finish, ResultCode.setsSticky, Bool.or_true]

/-- Settles O6: the step performs the pending write to CMD, which runs the command. -/
theorem stepRunsCommand : Obligations.StepRunsCommand := by
  refine ⟨fun s w rest i hp hw => ?_, fun s w rest r hp hw => ?_, fun s => step_of_idle⟩
  · rw [step_of_pending hp, hostAccess_writeCmd, runCommand_of_ok hw]
  · rw [step_of_pending hp, hostAccess_writeCmd, runCommand_of_error hw]

end Sys2Proof.Proofs

/-! PROOFS of the statements of the encoding (spec/30_encoding.md): decoding and encoding are inverse (R74, R76), the
decoder is the match and mask of the opcode table (R74), and what a word that matches no row does (R75). -/

namespace Sys2Proof.Proofs

open Sys2Proof.Machine Sys2Proof.Laws

/-! ## The bits of a command word that are 0 (R71, R72, R73)

Each check of the decoder says that certain bits of one field are 0, so the checks of a row are one mask. -/

/-- The bits of a 4-bit field that are 0 in every value the use admits. -/
def fieldMask : FieldUse → BitVec 4
  | .unused => 0xF
  | .fieldReg => 0
  | .pointReg => 8
  | .buffer => 0xC

/-- The bits of `imm` above the `n` low ones. -/
def immMask (n : Nat) : BitVec 12 := BitVec.allOnes 12 <<< n

/-- The mask of a row with this layout, field by field. -/
def shapeMask (sh : Shape) : Fields :=
  ⟨0xFF, fieldMask sh.a, fieldMask sh.b, fieldMask sh.c, immMask sh.immBits⟩

/-- The two checks of one field (R71, R72) are its mask. -/
theorem fieldChecks_iff (u : FieldUse) (x : BitVec 4) :
    (u.zeroOk x = true ∧ u.indexOk x = true) ↔ x &&& fieldMask u = 0 := by
  cases u <;> decide +revert

theorem imm_lt_iff (x : BitVec 12) (n : Nat) : x.toNat < 2 ^ n ↔ x &&& immMask n = 0 := by
  have hle : x.toNat / 2 ^ n * 2 ^ n < 2 ^ 12 := (Nat.div_mul_le_self _ _).trans_lt x.isLt
  rw [immMask, ← BitVec.shiftLeft_ushiftRight, ← BitVec.toNat_inj, BitVec.toNat_shiftLeft, BitVec.toNat_ushiftRight,
    Nat.shiftRight_eq_div_pow, Nat.shiftLeft_eq, Nat.mod_eq_of_lt hle]
  simp [Nat.div_eq_zero_iff]

theorem reject?_eq_none_iff (x : Fields) : x.reject? = none ↔ ∃ sh, shapeOf x.op = some sh ∧
    x.a &&& fieldMask sh.a = 0 ∧ x.b &&& fieldMask sh.b = 0 ∧ x.c &&& fieldMask sh.c = 0 ∧
    x.imm &&& immMask sh.immBits = 0 := by
  unfold Fields.reject?
  cases shapeOf x.op with
  | none => simp
  | some sh =>
    simp only [Option.some.injEq, exists_eq_left', ← fieldChecks_iff, ← imm_lt_iff, Shape.zerosOk, Shape.indexesOk]
    split_ifs <;> simp_all

/-! ## Fields and commands (R70, R74) -/

/-- The model's laws of the single commands, as one. -/
theorem encoding_statement (i : Instr) : Encoding.Statement i := by
  cases i with
  | nop => exact Encoding.nop
  | wipe => exact Encoding.wipe
  | cset i => exact Encoding.cset i
  | bldl bd => exact Encoding.bldl bd
  | fzero fd => exact Encoding.fzero fd
  | fone fd => exact Encoding.fone fd
  | fmov fd fs => exact Encoding.fmov fd fs
  | fadd fd fs1 fs2 => exact Encoding.fadd fd fs1 fs2
  | fsub fd fs1 fs2 => exact Encoding.fsub fd fs1 fs2
  | fneg fd fs => exact Encoding.fneg fd fs
  | fmul fd fs1 fs2 => exact Encoding.fmul fd fs1 fs2
  | fsq fd fs => exact Encoding.fsq fd fs
  | fsq2 fd fs => exact Encoding.fsq2 fd fs
  | finv fd fs => exact Encoding.finv fd fs
  | fcneg fd fs => exact Encoding.fcneg fd fs
  | fcsel fd fs1 fs2 => exact Encoding.fcsel fd fs1 fs2
  | fisneg fs => exact Encoding.fisneg fs
  | fisnz fs => exact Encoding.fisnz fs
  | fenc bd fs => exact Encoding.fenc bd fs
  | fdec fd bs => exact Encoding.fdec fd bs
  | pident pd => exact Encoding.pident pd
  | pbase pd => exact Encoding.pbase pd
  | pmov pd ps => exact Encoding.pmov pd ps
  | pneg pd ps => exact Encoding.pneg pd ps
  | padd pd ps1 ps2 => exact Encoding.padd pd ps1 ps2
  | psub pd ps1 ps2 => exact Encoding.psub pd ps1 ps2
  | pdbl pd ps => exact Encoding.pdbl pd ps
  | pcvt pd ps v => exact Encoding.pcvt pd ps v
  | pgetc fd ps k => exact Encoding.pgetc fd ps k
  | penc bd ps => exact Encoding.penc bd ps
  | pdec pd bs => exact Encoding.pdec pd bs
  | pdecnv pd bs => exact Encoding.pdecnv pd bs
  | padde pd ps1 ps2 => exact Encoding.padde pd ps1 ps2
  | smulb pd bs => exact Encoding.smulb pd bs
  | smulv pd ps bs => exact Encoding.smulv pd ps bs

@[simp] theorem reject?_fields (i : Instr) : i.fields.reject? = none :=
  Option.isNone_iff_eq_none.1 (encoding_statement i).2

@[simp] theorem getElem_boolField (b : Bool) : (boolField b)[0] = b := by cases b <;> rfl

@[simp] theorem build_fields (i : Instr) : i.fields.build = some i := by
  cases i <;> simp [Instr.fields, Fields.build]

/-! The other way round, the encoder's field of a decoded field: the bits under the mask are 0, so none is lost. -/

@[simp] theorem and_unusedMask (x : BitVec 4) : x &&& fieldMask .unused = x := BitVec.and_allOnes

@[simp] theorem fField_fIndex (x : BitVec 4) : fField (fIndex x) = x := by decide +revert

theorem pField_pIndex {x : BitVec 4} (h : x &&& fieldMask .pointReg = 0) : pField (pIndex x) = x := by
  decide +revert

theorem bField_bIndex {x : BitVec 4} (h : x &&& fieldMask .buffer = 0) : bField (bIndex x) = x := by
  decide +revert

@[simp] theorem and_immMask_zero (x : BitVec 12) : x &&& immMask 0 = x := BitVec.and_allOnes

theorem setWidth_setWidth_imm {x : BitVec 12} {n : Nat} (h : x &&& immMask n = 0) : (x.setWidth n).setWidth 12 = x := by
  rw [← imm_lt_iff] at h
  apply BitVec.eq_of_toNat_eq
  rw [BitVec.toNat_setWidth, BitVec.toNat_setWidth, Nat.mod_eq_of_lt h, Nat.mod_eq_of_lt x.isLt]

theorem boolField_imm {x : BitVec 12} (h : x &&& immMask 1 = 0) : boolField x[0] = x := by
  have hbit : ∀ v : BitVec 1, boolField v[0] = v.setWidth 12 := by decide
  have hlow : (x.setWidth 1)[0] = x[0] := BitVec.getElem_setWidth ..
  rw [← hlow, hbit, setWidth_setWidth_imm h]

theorem code_ofCode (v : BitVec 2) : (Variant.ofCode v).code = v := by decide +revert

theorem ofNat_imm {x : BitVec 12} (h : x &&& immMask 2 = 0) : BitVec.ofNat 12 (x.toNat % 4) = x := by
  have hlt : x.toNat < 4 := (imm_lt_iff x 2).2 h
  rw [Nat.mod_eq_of_lt hlt, BitVec.ofNat_toNat, BitVec.setWidth_eq]

/-- One case a row of the table: its opcode builds a command, whose fields are those of the word, since no bit under the
masks is set. -/
theorem build_of_reject?_eq_none {x : Fields} (hx : x.reject? = none) : ∃ i, x.build = some i ∧ i.fields = x := by
  obtain ⟨sh, hsh, ha, hb, hc, himm⟩ := (reject?_eq_none_iff x).1 hx
  obtain ⟨op, a, b, c, imm⟩ := x
  unfold shapeOf at hsh
  split at hsh <;> cases hsh
  all_goals
    next hop =>
      subst hop
      refine ⟨_, rfl, ?_⟩
      simp_all [Instr.fields, pField_pIndex, bField_bIndex, boolField_imm, code_ofCode, setWidth_setWidth_imm,
        ofNat_imm]

/-! ## Decoding and encoding (R76) -/

theorem decode_of_fields {w : Word} {i : Instr} (h : Fields.ofWord w = i.fields) : decode w = .ok i := by
  rw [decode, h]
  simp only [reject?_fields, build_fields]

theorem reject?_of_decode {w : Word} {i : Instr} (h : decode w = .ok i) : (Fields.ofWord w).reject? = none := by
  unfold decode at h
  cases hx : (Fields.ofWord w).reject? with
  | none => rfl
  | some r => simp [hx] at h

/-- What passes every check is a command. -/
theorem decode_of_reject?_eq_none {w : Word} (h : (Fields.ofWord w).reject? = none) :
    ∃ i, decode w = .ok i ∧ Fields.ofWord w = i.fields := by
  obtain ⟨i, -, hi⟩ := build_of_reject?_eq_none h
  exact ⟨i, decode_of_fields hi.symm, hi.symm⟩

/-- A word decodes to the one command whose fields it has. -/
theorem decode_eq_ok_iff {w : Word} {i : Instr} : decode w = .ok i ↔ Fields.ofWord w = i.fields := by
  refine ⟨fun h => ?_, decode_of_fields⟩
  obtain ⟨j, hj, hfields⟩ := decode_of_reject?_eq_none (reject?_of_decode h)
  cases hj.symm.trans h
  exact hfields

theorem exists_decode_iff (w : Word) : (∃ i, decode w = .ok i) ↔ (Fields.ofWord w).reject? = none := by
  refine ⟨fun ⟨i, hi⟩ => reject?_of_decode hi, fun h => ?_⟩
  obtain ⟨i, hi, -⟩ := decode_of_reject?_eq_none h
  exact ⟨i, hi⟩

/-- Settles O1: the word's fields are the command's, which pass the checks and build the command. -/
theorem decodeEncode : Obligations.DecodeEncode :=
  fun i => decode_of_fields (ofWord_toWord i.fields)

/-- Settles O2: a word that decodes has the command's fields, and the fields determine the word. -/
theorem encodeDecode : Obligations.EncodeDecode := by
  intro w i h
  rw [encode, ← decode_eq_ok_iff.1 h, toWord_ofWord]

/-- Settles O3: each of the words is the encoding of its command. -/
theorem decodeSampleWords : Obligations.DecodeSampleWords :=
  ⟨rfl, rfl, rfl, rfl, rfl, rfl, rfl, rfl, rfl, rfl, rfl, rfl⟩

/-! ## The opcode table (R74) -/

/-- The opcode of a row: the top byte of its match. -/
def rowOpcode (r : OpcodeRow) : BitVec 8 := r.pattern.extractLsb' 24 8

/-- The table against the decoder's own: a row's match is its opcode, every other field 0, and its mask is that of the
opcode's layout. -/
theorem opcodeTable_rows : ∀ r ∈ opcodeTable, Fields.ofWord r.pattern = ⟨rowOpcode r, 0, 0, 0, 0⟩ ∧
    (shapeOf (rowOpcode r)).map shapeMask = some (Fields.ofWord r.mask) := by
  decide +kernel

theorem rowOpcode_injOn {r r' : OpcodeRow} (hr : r ∈ opcodeTable) (hr' : r' ∈ opcodeTable)
    (h : rowOpcode r = rowOpcode r') : r = r' :=
  List.inj_on_of_nodup_map (by decide +kernel : (opcodeTable.map rowOpcode).Nodup) hr hr' h

theorem mnemonic_injOn {r r' : OpcodeRow} (hr : r ∈ opcodeTable) (hr' : r' ∈ opcodeTable)
    (h : r.mnemonic = r'.mnemonic) : r = r' :=
  List.inj_on_of_nodup_map (by decide +kernel : (opcodeTable.map OpcodeRow.mnemonic).Nodup) hr hr' h

/-- Every command has a row. -/
theorem exists_row (i : Instr) : ∃ r ∈ opcodeTable, rowOpcode r = i.fields.op ∧ r.mnemonic = i.mnemonic := by
  have hfind : (opcodeTable.find? fun r => rowOpcode r == i.fields.op).map OpcodeRow.mnemonic = some i.mnemonic := by
    cases i <;> rfl
  obtain ⟨r, hr, hname⟩ := Option.map_eq_some_iff.1 hfind
  exact ⟨r, List.mem_of_find?_eq_some hr, by simpa using List.find?_some hr, hname⟩

/-- In the table the mnemonic of a command and its opcode name the same row. -/
theorem mnemonic_eq_iff {r : OpcodeRow} (hr : r ∈ opcodeTable) (i : Instr) :
    i.mnemonic = r.mnemonic ↔ i.fields.op = rowOpcode r := by
  obtain ⟨r', hr', hop, hname⟩ := exists_row i
  rw [← hop, ← hname]
  constructor
  · intro h
    rw [mnemonic_injOn hr' hr h]
  · intro h
    rw [rowOpcode_injOn hr' hr h]

theorem ofWord_and (w v : Word) : Fields.ofWord (w &&& v) =
    ⟨(Fields.ofWord w).op &&& (Fields.ofWord v).op, (Fields.ofWord w).a &&& (Fields.ofWord v).a,
      (Fields.ofWord w).b &&& (Fields.ofWord v).b, (Fields.ofWord w).c &&& (Fields.ofWord v).c,
      (Fields.ofWord w).imm &&& (Fields.ofWord v).imm⟩ := by
  simp only [Fields.ofWord, BitVec.extractLsb'_and]

theorem ofWord_inj {w v : Word} : Fields.ofWord w = Fields.ofWord v ↔ w = v :=
  ⟨fun h => by rw [← toWord_ofWord w, h, toWord_ofWord], congrArg Fields.ofWord⟩

/-- A word matches a row when it has the row's opcode and passes the checks. -/
theorem matchesWord_iff {r : OpcodeRow} (hr : r ∈ opcodeTable) (w : Word) :
    r.matchesWord w ↔ (Fields.ofWord w).op = rowOpcode r ∧ (Fields.ofWord w).reject? = none := by
  obtain ⟨hpattern, hmask⟩ := opcodeTable_rows r hr
  obtain ⟨sh, hsh, hmask⟩ := Option.map_eq_some_iff.1 hmask
  have hop : (Fields.ofWord w).op &&& 0xFF = (Fields.ofWord w).op := BitVec.and_allOnes
  rw [OpcodeRow.matchesWord, ← ofWord_inj, ofWord_and, hpattern, ← hmask, shapeMask, Fields.mk.injEq, hop,
    reject?_eq_none_iff]
  refine and_congr_right fun h => ?_
  simp only [h, hsh, Option.some.injEq, exists_eq_left']

/-- A word matches a row when it decodes to a command with the row's mnemonic. -/
theorem matchesWord_iff_decode {r : OpcodeRow} (hr : r ∈ opcodeTable) (w : Word) :
    r.matchesWord w ↔ ∃ i, decode w = .ok i ∧ i.mnemonic = r.mnemonic := by
  rw [matchesWord_iff hr, ← exists_decode_iff]
  constructor
  · rintro ⟨hop, i, hi⟩
    exact ⟨i, hi, (mnemonic_eq_iff hr i).2 (decode_eq_ok_iff.1 hi ▸ hop)⟩
  · rintro ⟨i, hi, hname⟩
    exact ⟨decode_eq_ok_iff.1 hi ▸ (mnemonic_eq_iff hr i).1 hname, i, hi⟩

/-- Settles O4: each row's mask is the decoder's checks of its opcode, and the opcodes of the rows differ. -/
theorem opcodeTableDecode : Obligations.OpcodeTableDecode := by
  refine ⟨fun w r hr => matchesWord_iff_decode hr w, fun w r r' hr hr' h h' => ?_⟩
  obtain ⟨hop, -⟩ := (matchesWord_iff hr w).1 h
  obtain ⟨hop', -⟩ := (matchesWord_iff hr' w).1 h'
  exact rowOpcode_injOn hr hr' (hop.symm.trans hop')

/-! ## The result codes a command can end with (R220) -/

/-- The codes of R220 by the commands that raise them. -/
def resultCodes : Instr → List ResultCode
  | .nop | .wipe | .cset _ | .bldl _ | .fzero _ | .fone _ | .fdec _ _ | .pident _ | .pbase _ => [.ok]
  | .fmov _ _ | .fadd _ _ _ | .fsub _ _ _ | .fneg _ _ | .fmul _ _ _ | .fsq _ _ | .fsq2 _ _ | .finv _ _ | .fcneg _ _
  | .fcsel _ _ _ | .fisneg _ | .fisnz _ | .fenc _ _ | .pmov _ _ | .pneg _ _ => [.ok, .uninit]
  | .padd _ _ _ | .psub _ _ _ | .pdbl _ _ | .pcvt _ _ _ | .pgetc _ _ _ | .penc _ _ | .padde _ _ _ | .smulv _ _ _ =>
    [.ok, .uninit, .tag]
  | .pdec _ _ | .pdecnv _ _ => [.ok, .decode]
  | .smulb _ _ => [.ok, .range]

section ResultCodes

variable {s t : State}

theorem done_err (h : s.done = .next t) : t.err ∈ [ResultCode.ok] := by
  cases h
  exact List.mem_singleton_self _

theorem unaryF_err {fd fs : FReg} {op : Fp → Fp} (h : unaryF fd fs op s = .next t) :
    t.err ∈ [ResultCode.ok, .uninit] := by
  obtain ⟨-, rfl⟩ | ⟨a, -, rfl⟩ := of_next (unaryF_cases op) h <;> simp

theorem binaryF_err {fd fs1 fs2 : FReg} {op : Fp → Fp → Fp} (h : binaryF fd fs1 fs2 op s = .next t) :
    t.err ∈ [ResultCode.ok, .uninit] := by
  obtain ⟨-, rfl⟩ | ⟨a, b, -, -, rfl⟩ := of_next (binaryF_cases op) h <;> simp

theorem testF_err {fs : FReg} {op : Fp → Bool} (h : testF fs op s = .next t) : t.err ∈ [ResultCode.ok, .uninit] := by
  obtain ⟨-, rfl⟩ | ⟨a, -, rfl⟩ := of_next (testF_cases op) h <;> simp

theorem storeF_err {bd : BReg} {fs : FReg} {op : Fp → Bytes32} (h : storeF bd fs op s = .next t) :
    t.err ∈ [ResultCode.ok, .uninit] := by
  obtain ⟨-, rfl⟩ | ⟨a, -, rfl⟩ := of_next (storeF_cases op) h <;> simp

theorem unaryP_err {pd ps : PReg} {op : Point → Option Point} (h : unaryP pd ps op s = .next t) :
    t.err ∈ [ResultCode.ok, .uninit, .tag] := by
  obtain ⟨-, rfl⟩ | ⟨q, -, -, rfl⟩ | ⟨q, r, -, -, rfl⟩ := of_next (unaryP_cases op) h <;> simp

/-- `PMOV` and `PNEG` accept every variant. -/
theorem unaryP_total_err {pd ps : PReg} {op : Point → Point} (h : unaryP pd ps (fun q => some (op q)) s = .next t) :
    t.err ∈ [ResultCode.ok, .uninit] := by
  obtain ⟨-, rfl⟩ | ⟨q, -, hr, rfl⟩ | ⟨q, r, -, -, rfl⟩ := of_next (unaryP_cases _) h
  · simp
  · cases hr
  · simp

theorem binaryP_err {pd ps1 ps2 : PReg} {op : Point → Point → Option Point} (h : binaryP pd ps1 ps2 op s = .next t) :
    t.err ∈ [ResultCode.ok, .uninit, .tag] := by
  obtain ⟨-, rfl⟩ | ⟨q1, q2, -, -, -, rfl⟩ | ⟨q1, q2, r, -, -, -, rfl⟩ := of_next (binaryP_cases op) h <;> simp

theorem extractP_err {fd : FReg} {ps : PReg} {op : Point → Option Fp} (h : extractP fd ps op s = .next t) :
    t.err ∈ [ResultCode.ok, .uninit, .tag] := by
  obtain ⟨-, rfl⟩ | ⟨q, -, -, rfl⟩ | ⟨q, v, -, -, rfl⟩ := of_next (extractP_cases op) h <;> simp

theorem storeP_err {bd : BReg} {ps : PReg} {op : Point → Option Bytes32} (h : storeP bd ps op s = .next t) :
    t.err ∈ [ResultCode.ok, .uninit, .tag] := by
  obtain ⟨-, rfl⟩ | ⟨q, -, -, rfl⟩ | ⟨q, v, -, -, rfl⟩ := of_next (storeP_cases op) h <;> simp

theorem decodeP_err {pd : PReg} {bs : BReg} {op : Bytes32 → Option Point} (h : decodeP pd bs op s = .next t) :
    t.err ∈ [ResultCode.ok, .decode] := by
  obtain ⟨-, rfl⟩ | ⟨r, -, rfl⟩ := of_next (decodeP_cases op) h <;> simp

theorem scalarP_err {pd : PReg} {bs : BReg} {op : Nat → Option Point} (h : scalarP pd bs op s = .next t) :
    t.err ∈ [ResultCode.ok, .range] := by
  obtain ⟨-, rfl⟩ | ⟨r, -, rfl⟩ := of_next (scalarP_cases op) h <;> simp

/-- Every command ends with one of its codes: the operand form it is has no other. -/
theorem exec_err {i : Instr} (h : exec i s = .next t) : t.err ∈ resultCodes i := by
  cases i with
  | nop => exact done_err h
  | wipe => exact done_err (s := s.wipe) h
  | cset b => exact done_err (s := s.writeCf b) h
  | bldl bd => exact done_err h
  | fzero fd => exact done_err h
  | fone fd => exact done_err h
  | fmov fd fs => exact unaryF_err h
  | fadd fd fs1 fs2 => exact binaryF_err h
  | fsub fd fs1 fs2 => exact binaryF_err h
  | fneg fd fs => exact unaryF_err h
  | fmul fd fs1 fs2 => exact binaryF_err h
  | fsq fd fs => exact unaryF_err h
  | fsq2 fd fs => exact unaryF_err h
  | finv fd fs => exact unaryF_err h
  | fcneg fd fs => exact unaryF_err h
  | fcsel fd fs1 fs2 => exact binaryF_err h
  | fisneg fs => exact testF_err h
  | fisnz fs => exact testF_err h
  | fenc bd fs => exact storeF_err h
  | fdec fd bs => exact done_err h
  | pident pd => exact done_err h
  | pbase pd => exact done_err h
  | pmov pd ps => exact unaryP_total_err (op := id) h
  | pneg pd ps => exact unaryP_total_err h
  | padd pd ps1 ps2 => exact binaryP_err h
  | psub pd ps1 ps2 => exact binaryP_err h
  | pdbl pd ps => exact unaryP_err h
  | pcvt pd ps v => exact unaryP_err h
  | pgetc fd ps k => exact extractP_err h
  | penc bd ps => exact storeP_err h
  | pdec pd bs => simp only [exec, execPdec] at h; exact decodeP_err h
  | pdecnv pd bs => simp only [exec, execPdecnv] at h; exact decodeP_err h
  | padde pd ps1 ps2 => exact binaryP_err h
  | smulb pd bs => simp only [exec, execSmulb] at h; exact scalarP_err h
  | smulv pd ps bs => simp only [exec, execSmulv] at h; exact unaryP_err h

theorem illegal_notMem_resultCodes (i : Instr) : .illegal ∉ resultCodes i := by
  cases i <;> simp [resultCodes]

theorem exec_err_ne_illegal {i : Instr} (h : exec i s = .next t) : t.err ≠ .illegal :=
  ne_of_mem_of_not_mem (exec_err h) (illegal_notMem_resultCodes i)

end ResultCodes

/-! ## Illegal words (R75) -/

/-- A word that matches no row decodes to no command, since every command has a row. -/
theorem decode_error_of_no_row {w : Word} (h : ∀ r ∈ opcodeTable, ¬ r.matchesWord w) : ∃ e, decode w = .error e := by
  cases hw : decode w with
  | error e => exact ⟨e, rfl⟩
  | ok i =>
    obtain ⟨r, hr, -, hname⟩ := exists_row i
    exact absurd ((matchesWord_iff_decode hr w).2 ⟨i, hw, hname.symm⟩) (h r hr)

/-- The opcodes of the rows, as R75 lists them. -/
theorem rowOpcode_range : ∀ r ∈ opcodeTable, (rowOpcode r).toNat ≤ 0x03 ∨
    (0x10 ≤ (rowOpcode r).toNat ∧ (rowOpcode r).toNat ≤ 0x2C) ∨ (rowOpcode r).toNat = 0x30 ∨
    (rowOpcode r).toNat = 0x31 := by
  decide +kernel

/-- Settles O5: no row means no command; a row means a command, and no command ends with ILLEGAL. -/
theorem illegalWord : Obligations.IllegalWord := by
  refine ⟨fun w s hw => ?_, fun w s t r hr hw ht => ?_, fun w hop r hr hw => ?_, by decide +kernel⟩
  · obtain ⟨e, he⟩ := decode_error_of_no_row hw
    exact runCommand_of_error he s
  · obtain ⟨i, hi, -⟩ := (matchesWord_iff_decode hr w).1 hw
    exact exec_err_ne_illegal ((runCommand_of_ok hi s).symm.trans ht)
  · obtain ⟨hrow, -⟩ := (matchesWord_iff hr w).1 hw
    have hrange := rowOpcode_range r hr
    rw [← hrow] at hrange
    exact hop hrange

end Sys2Proof.Proofs

/-! PROOFS of the statements of the field commands (spec/40_field.md): what a completed command leaves in its destination
(R100), the field operations as integer operations (R104 to R109), the chains of R118 and R119 as powers, the inverse
(R110), and field elements as byte strings (R115, R116). -/

namespace Sys2Proof.Proofs

open Sys2Proof.Machine Sys2Proof.Laws

/-! ## A completed command (R100, R221, R223) -/

/-- Result code OK leaves STICKY as it was. -/
theorem endsOk_finish {s u : State} (h : u.sticky = s.sticky) : s.EndsOk (u.finish .ok) :=
  ⟨rfl, by rw [finish_sticky, h]; exact Bool.or_false _⟩

theorem writeF_finish_ok (s : State) (fd : FReg) (v : Fp) :
    s.EndsOk ((s.writeF fd v).finish .ok) ∧ ((s.writeF fd v).finish .ok).readF fd = some v :=
  ⟨endsOk_finish rfl, readF_writeF_self s fd v⟩

/-- What is said of the value a command wrote, holds of the value its destination reads. -/
theorem completes_of_writeF {s : State} {fd : FReg} {v : Fp} {ans : Answer} {P : Fp → Prop}
    (h : ans = .next ((s.writeF fd v).finish .ok)) (hv : P v) :
    ∃ t v, ans = .next t ∧ s.EndsOk t ∧ t.readF fd = some v ∧ P v :=
  ⟨_, v, h, endsOk_finish rfl, readF_writeF_self s fd v, hv⟩

theorem writeCf_finish_ok (s : State) (b : Bool) : (s.writeCf b).finish .ok = { s with cf := b, err := .ok } := by
  simp only [State.writeCf, State.finish, ResultCode.setsSticky, Bool.or_false]

/-! ## The field commands as integer operations modulo p (R101 to R114) -/

/-- Settles O28: neither command has a source. -/
theorem fieldConstants : Obligations.FieldConstants := fun s fd =>
  ⟨⟨_, done_eq _, writeF_finish_ok s fd 0⟩, ⟨_, done_eq _, writeF_finish_ok s fd 1⟩⟩

theorem val_condNeg (cf : Bool) (a : Fp) :
    (condNeg cf a).val = if cf = true then (fieldPrime - a.val) % fieldPrime else a.val := by
  rw [condNeg, apply_ite Fin.val, Fin.val_neg']

/-- Settles O27: the operand forms write `a`, `condNeg cf a` and `condSelect cf b c`. -/
theorem fieldMoves : Obligations.FieldMoves := fun s fd _ _ _ a _ _ ha hb hc =>
  ⟨⟨_, unaryF_written _ ha, writeF_finish_ok s fd a⟩,
   completes_of_writeF (unaryF_written _ ha) (val_condNeg s.cf a),
   ⟨_, binaryF_written _ hb hc, writeF_finish_ok s fd _⟩⟩

theorem val_mul_int (a b : Fp) : ((a * b).val : Int) = (a.val : Int) * b.val % fieldPrime := by
  rw [Fin.val_mul, Int.natCast_mod, Int.natCast_mul]

/-- Twice a square, reduced once or after each product. -/
theorem val_two_mul_mul (a : Fp) : (2 * a * a).val = 2 * a.val * a.val % fieldPrime := by
  rw [Fin.val_mul, Fin.val_mul, Nat.mod_mul_mod]
  rfl

/-- Settles O29: the operations of `Fin p` are those of the integers, reduced modulo p. -/
theorem fieldArithmetic : Obligations.FieldArithmetic := fun _ _ _ _ a b ha hb =>
  ⟨completes_of_writeF (binaryF_written _ ha hb) (Fin.coe_int_add_eq_mod a b),
   completes_of_writeF (binaryF_written _ ha hb) (Fin.coe_int_sub_eq_mod a b),
   completes_of_writeF (binaryF_written _ ha hb) (val_mul_int a b),
   completes_of_writeF (unaryF_written _ ha) (Fin.val_neg' a),
   completes_of_writeF (unaryF_written _ ha) (Fin.val_mul a a),
   completes_of_writeF (unaryF_written _ ha) (val_two_mul_mul a)⟩

theorem nonzeroFlag_eq (a : Fp) : nonzeroFlag a = decide (a.val ≠ 0) :=
  decide_eq_decide.2 Fin.val_ne_zero_iff.symm

/-- Settles O32: a test writes its flag, which is one of the canonical value. -/
theorem fieldTests : Obligations.FieldTests := by
  intro s fs a ha
  constructor
  · exact (testF_written negativeFlag ha).trans (congrArg _ (writeCf_finish_ok s _))
  · rw [← nonzeroFlag_eq]
    exact (testF_written nonzeroFlag ha).trans (congrArg _ (writeCf_finish_ok s _))

/-! ## Powers and the chains of R118 and R119 -/

/-- `x` is `z ^ n` in the field. -/
def IsPower (z x : Fp) (n : Nat) : Prop := Laws.toZ x = Laws.toZ z ^ n

section Powers

variable {z x y : Fp} {m n : Nat}

theorem isPower_self (z : Fp) : IsPower z z 1 := (pow_one _).symm

theorem isPower_pow (z : Fp) (h : n < 2 ^ 255) : IsPower z (z.pow n) n := toZ_pow z n h

theorem IsPower.mul (hx : IsPower z x m) (hy : IsPower z y n) : IsPower z (x * y) (m + n) := by
  rw [IsPower] at *
  rw [toZ_mul, hx, hy, pow_add]

theorem IsPower.sqN (hx : IsPower z x m) (k : Nat) : IsPower z (Fp.sqN x k) (m * 2 ^ k) := by
  rw [IsPower] at *
  rw [toZ_sqN, hx, pow_mul]

theorem IsPower.of_eq (hx : IsPower z x m) (h : m = n) : IsPower z x n := h ▸ hx

/-- The chains' one idea: `2^m - 1` is m binary ones, and n squarings make room for n more of them. -/
theorem IsPower.append_ones (m n : Nat) (hx : IsPower z x (2 ^ m - 1)) (hy : IsPower z y (2 ^ n - 1)) :
    IsPower z (Fp.sqN x n * y) (2 ^ (m + n) - 1) := by
  have hexp : (2 ^ m - 1) * 2 ^ n + (2 ^ n - 1) = 2 ^ (m + n) - 1 := by
    have hle : 2 ^ n ≤ 2 ^ m * 2 ^ n := Nat.le_mul_of_pos_left _ (by positivity)
    have hpos : 0 < 2 ^ n := by positivity
    rw [Nat.sub_mul, pow_add]
    omega
  rw [← hexp]
  exact (hx.sqN n).mul hy

/-- The power is unique. -/
theorem IsPower.eq (hx : IsPower z x n) (hy : IsPower z y n) : x = y := toZ_injective (hx.trans hy.symm)

/-- The canonical value of a power. -/
theorem IsPower.val_eq (hx : IsPower z x n) : x.val = z.val ^ n % fieldPrime := by
  have h : x = Fp.ofNat (z.val ^ n) := by
    apply toZ_injective
    rw [toZ_ofNat', Nat.cast_pow]
    exact hx
  exact congrArg Fin.val h

end Powers

theorem isPower_inv (z : Fp) : IsPower z z.inv (fieldPrime - 2) := isPower_pow z (by decide)

/-- The common part of R118 and R119. -/
theorem isPower_chain250 (z : Fp) : IsPower z z.chain250.1 11 ∧ IsPower z z.chain250.2 (2 ^ 250 - 1) := by
  have pow2 : IsPower z _ 2 := (isPower_self z).sqN 1
  have pow9 : IsPower z _ 9 := (isPower_self z).mul (pow2.sqN 2)
  have pow11 : IsPower z _ 11 := pow2.mul pow9
  have ones5 : IsPower z _ (2 ^ 5 - 1) := pow9.mul (pow11.sqN 1)
  have ones10 : IsPower z _ (2 ^ 10 - 1) := .append_ones 5 5 ones5 ones5
  have ones20 : IsPower z _ (2 ^ 20 - 1) := .append_ones 10 10 ones10 ones10
  have ones40 : IsPower z _ (2 ^ 40 - 1) := .append_ones 20 20 ones20 ones20
  have ones50 : IsPower z _ (2 ^ 50 - 1) := .append_ones 40 10 ones40 ones10
  have ones100 : IsPower z _ (2 ^ 100 - 1) := .append_ones 50 50 ones50 ones50
  have ones200 : IsPower z _ (2 ^ 200 - 1) := .append_ones 100 100 ones100 ones100
  exact ⟨pow11, .append_ones 200 50 ones200 ones50⟩

theorem isPower_invChain (z : Fp) : IsPower z z.invChain (fieldPrime - 2) := by
  obtain ⟨pow11, ones250⟩ := isPower_chain250 z
  exact ((ones250.sqN 5).mul pow11).of_eq (by decide)

theorem isPower_pow58 (z : Fp) : IsPower z z.pow58 ((fieldPrime - 5) / 8) :=
  (((isPower_chain250 z).2.sqN 2).mul (isPower_self z)).of_eq (by decide)

/-- Settles O31: each chain is the power its exponents add up to. -/
theorem exponentChains : Obligations.ExponentChains := fun z =>
  ⟨(isPower_invChain z).eq (isPower_inv z), (isPower_invChain z).val_eq, (isPower_pow58 z).val_eq, by decide⟩

theorem fp_inv_zero : (0 : Fp).inv = 0 := by
  have := fact_prime
  rw [← toZ_eq_zero, toZ_inv, toZ_zero, inv_zero]

/-- Settles O30: `inv` is the power p - 2, the inverse of the field (R110). -/
theorem finvResult : Obligations.FinvResult := by
  intro s fd fs a ha
  refine completes_of_writeF (unaryF_written _ ha) ⟨?_, ?_, ?_⟩
  · exact (isPower_inv a).val_eq
  · exact mul_inv_self
  · rintro rfl
    exact fp_inv_zero

/-! ## Field elements as byte strings (R17, R115, R116) -/

theorem toNat_toBytes (a : Fp) : a.toBytes.toNat = a.val :=
  (BitVec.toNat_ofNat _ _).trans (Nat.mod_eq_of_lt (a.isLt.trans (by decide)))

/-- A canonical value is below 2^255. -/
theorem getLsbD_toBytes_last (a : Fp) : a.toBytes.getLsbD 255 = false := by
  rw [← BitVec.testBit_toNat, toNat_toBytes]
  exact Nat.testBit_lt_two_pow (a.isLt.trans (by decide))

theorem val_ofBytes (b : Bytes32) : (Fp.ofBytes b).val = b.toNat % 2 ^ 255 % fieldPrime := rfl

/-- The strings that are the encoding of a field element are those below p. -/
theorem toBytes_ofBytes_eq_iff (b : Bytes32) : (Fp.ofBytes b).toBytes = b ↔ b.toNat < fieldPrime := by
  rw [← BitVec.toNat_inj, toNat_toBytes]
  constructor
  · intro h
    rw [← h]
    exact (Fp.ofBytes b).isLt
  · intro h
    rw [val_ofBytes, Nat.mod_eq_of_lt (h.trans (by decide)), Nat.mod_eq_of_lt h]

/-- The next state of `FENC`, and its buffer. -/
theorem exec_fenc {s : State} (hmem : s.MemValid) {fs : FReg} {a : Fp} (ha : s.readF fs = some a) (bd : BReg) :
    ∃ t, exec (.fenc bd fs) s = .next t ∧ s.EndsOk t ∧ t.readB bd = a.toBytes :=
  ⟨_, storeF_written _ ha, endsOk_finish (writeB_sticky ..),
    by rw [finish_readB, readB_writeB hmem.1, if_pos rfl]⟩

/-- Settles O34: the buffer holds `le32(a)`. -/
theorem fencResult : Obligations.FencResult := by
  intro s bd fs a hmem ha
  obtain ⟨t, ht, hok, hbuf⟩ := exec_fenc hmem ha bd
  refine ⟨t, ht, hok, ?_⟩
  rw [hbuf]
  exact ⟨toNat_toBytes a, getLsbD_toBytes_last a⟩

/-- Settles O35: after `FDEC`, `FENC` stores the encoding of the value decoded. -/
theorem fdecResult : Obligations.FdecResult := by
  refine ⟨fun s fd bs => completes_of_writeF (done_eq _) (val_ofBytes _), fun s t t' fd bs bd hmem ht ht' => ?_⟩
  obtain rfl : (s.writeF fd (Fp.ofBytes (s.readB bs))).finish .ok = t := Host.Outcome.next.inj ht
  have hread := (writeF_finish_ok s fd (Fp.ofBytes (s.readB bs))).2
  obtain ⟨-, hbuf⟩ := of_next (exec_fenc (s := (s.writeF fd _).finish .ok) hmem hread bd) ht'
  rw [hbuf, toBytes_ofBytes_eq_iff]

end Sys2Proof.Proofs

/-! PROOFS of the statements of the group commands (spec/41_group.md): the components each command writes (R131 to R139),
what the results denote (R145), the encoding of a point (R140), and decoding (R141, R142, R146) as its inverse. -/

namespace Sys2Proof.Proofs

open Sys2Proof.Machine Sys2Proof.Laws

/-! ## A completed command with a point register destination (R130, R221, R223) -/

theorem writeP_finish_ok (s : State) (pd : PReg) (q : Point) :
    s.EndsOk ((s.writeP pd q).finish .ok) ∧ ((s.writeP pd q).finish .ok).readP pd = some q :=
  ⟨endsOk_finish rfl, readP_writeP_self s pd q⟩

/-- What is said of the point a command wrote, holds of the point its destination reads. -/
theorem denotes_of_writeP {s : State} {pd : PReg} {r : Point} {ans : Answer} {P : Point → Prop}
    (h : ans = .next ((s.writeP pd r).finish .ok)) (hr : P r) :
    ∃ t r, ans = .next t ∧ t.readP pd = some r ∧ P r :=
  ⟨_, r, h, readP_writeP_self s pd r, hr⟩

/-- Of two completed commands with one destination, the second leaves nothing of the first. -/
theorem writeP_finish_writeP (s : State) (pd : PReg) (q r : Point) :
    (((s.writeP pd q).finish .ok).writeP pd r).finish .ok = (s.writeP pd r).finish .ok := by
  simp only [State.writeP, State.finish, ResultCode.setsSticky, Bool.or_false, Vector.set_set]

theorem finish_tag_eq (s : State) : s.finish .tag = { s with err := .tag, sticky := true } := by
  simp only [State.finish, ResultCode.setsSticky, Bool.or_true]

/-! ## The variant of a representation (R30) -/

theorem exists_extended {q : Point} (h : q.variant = .extended) : ∃ e, q = .extended e := by
  cases q with
  | extended e => exact ⟨e, rfl⟩
  | projective p => cases h
  | completed c => cases h
  | cached k => cases h

theorem exists_cached {q : Point} (h : q.variant = .cached) : ∃ k, q = .cached k := by
  cases q with
  | extended e => cases h
  | projective p => cases h
  | completed c => cases h
  | cached k => exact ⟨k, rfl⟩

/-! ## The components the commands write (R131 to R138) -/

/-- The base point, with the product of its coordinates evaluated (R10, R132). -/
theorem extended_base_eq : Extended.base =
    ⟨0x216936d3cd6e53fec0a4e231fdd6dc5c692cc7609525a7b2c9562d608f25d51a,
     0x6666666666666666666666666666666666666666666666666666666666666658, 1,
     0x67875f0fd78b766566ea4e8e64abe37d20f09f80775152f56dde8ab3a5b7dda3⟩ := by
  decide +kernel

/-- Settles O36: neither command has a source; the base point is evaluated. -/
theorem pointConstants : Obligations.PointConstants := fun s pd =>
  ⟨⟨_, done_eq _, writeP_finish_ok s pd _⟩,
   ⟨_, done_eq _, by rw [← extended_base_eq]; exact writeP_finish_ok s pd _⟩,
   by decide, onCurve_base⟩

/-- Settles O37, by the variant of the source. -/
theorem pmovPnegResult : Obligations.PmovPnegResult := by
  intro s pd ps q hq
  refine ⟨⟨_, unaryP_written some hq rfl, writeP_finish_ok s pd q⟩, _, q.negate,
    unaryP_written (fun q => some q.negate) hq rfl, (writeP_finish_ok s pd _).1, (writeP_finish_ok s pd _).2,
    ?_, ?_, ?_, ?_⟩
  · rintro x y z w rfl; rfl
  · rintro x y z rfl; rfl
  · rintro x y z w rfl; rfl
  · rintro p m z w rfl; rfl

/-- Settles O38: the pseudocode is the datapath. -/
theorem addSubResult : Obligations.AddSubResult := fun s pd _ _ _ _ _ _ _ _ _ _ h1 h2 =>
  ⟨⟨_, binaryP_written Point.add? h1 h2 rfl, writeP_finish_ok s pd _⟩,
   ⟨_, binaryP_written Point.sub? h1 h2 rfl, writeP_finish_ok s pd _⟩⟩

/-- `PDBL` takes an Extended operand as a Projective one (R137). -/
theorem exec_pdbl {s : State} {ps : PReg} {x y z : Fp}
    (h : s.readP ps = some (.projective ⟨x, y, z⟩) ∨ ∃ w, s.readP ps = some (.extended ⟨x, y, z, w⟩)) (pd : PReg) :
    exec (.pdbl pd ps) s = .next ((s.writeP pd (.completed (Projective.double ⟨x, y, z⟩))).finish .ok) := by
  obtain h | ⟨w, h⟩ := h
  · exact unaryP_written Point.double? h rfl
  · exact unaryP_written Point.double? h rfl

/-- Settles O39: the pseudocode is the datapath, which is evaluated at the identity. -/
theorem pdblResult : Obligations.PdblResult := by
  intro s pd ps x y z h
  obtain ⟨hok, hread⟩ := writeP_finish_ok s pd (.completed (Projective.double ⟨x, y, z⟩))
  refine ⟨_, _, exec_pdbl h pd, hok, hread, rfl, rfl, rfl, rfl, ?_⟩
  rintro rfl rfl rfl
  decide

/-- The twelve pairs of R138 that do not convert. -/
theorem convert?_eq_none {q : Point} {v : Variant}
    (h : ¬ ((q.variant = .completed ∧ (v = .extended ∨ v = .projective)) ∨
      (q.variant = .extended ∧ (v = .projective ∨ v = .cached)))) : q.convert? v = none := by
  unfold Point.convert?
  split
  · exact absurd (.inl ⟨rfl, .inl rfl⟩) h
  · exact absurd (.inl ⟨rfl, .inr rfl⟩) h
  · exact absurd (.inr ⟨rfl, .inl rfl⟩) h
  · exact absurd (.inr ⟨rfl, .inr rfl⟩) h
  · rfl

/-- Settles O40: an equation of `Point.convert?` for each of the four pairs, and `none` for the others. -/
theorem pcvtResult : Obligations.PcvtResult := by
  intro s pd ps x y z w
  refine ⟨fun h => ⟨?_, ?_⟩, fun h => ⟨?_, ?_⟩, fun q v hq hpair => ?_⟩
  · exact ⟨_, unaryP_written (Point.convert? .extended) h rfl, writeP_finish_ok s pd _⟩
  · exact ⟨_, unaryP_written (Point.convert? .projective) h rfl, writeP_finish_ok s pd _⟩
  · exact ⟨_, unaryP_written (Point.convert? .projective) h rfl, writeP_finish_ok s pd _⟩
  · exact ⟨_, unaryP_written (Point.convert? .cached) h rfl, writeP_finish_ok s pd _⟩
  · rw [← finish_tag_eq]
    exact unaryP_tag (Point.convert? v) hq (convert?_eq_none hpair)

/-! ## `PGETC` (R139) -/

theorem component?_eq {a b c d : Fp} {q : Point} {k : Fin 4}
    (h : q = .extended ⟨a, b, c, d⟩ ∨ q = .completed ⟨a, b, c, d⟩ ∨ q = .cached ⟨a, b, c, d⟩ ∨
      (q = .projective ⟨a, b, c⟩ ∧ k ≠ 3)) : q.component? k = some ([a, b, c, d].getD k.val 0) := by
  obtain rfl | rfl | rfl | ⟨rfl, hk⟩ := h
  · fin_cases k <;> rfl
  · fin_cases k <;> rfl
  · fin_cases k <;> rfl
  · fin_cases k
    · rfl
    · rfl
    · rfl
    · exact absurd rfl hk

theorem inv_ne_zero_of_ne_zero {z : Fp} (hz : z ≠ 0) : z.inv ≠ 0 := by
  intro h
  have h1 := mul_inv_self hz
  rw [h, mul_zero] at h1
  exact absurd h1 (by decide)

/-- An affine coordinate is 0 exactly when its numerator is. -/
theorem mul_inv_eq_zero_iff {x z : Fp} (hz : z ≠ 0) : x * z.inv = 0 ↔ x = 0 :=
  mul_eq_zero_iff.trans (or_iff_left (inv_ne_zero_of_ne_zero hz))

/-- Component 0 is the numerator of the affine x, but for Cached (R31, R32). -/
theorem component?_zero_iff {q : Point} (hq : q.Valid) (hv : q.variant ≠ .cached) :
    q.component? 0 = some 0 ↔ q.aff.x = 0 := by
  cases q with
  | extended e => exact Option.some_inj.trans (mul_inv_eq_zero_iff hq.1).symm
  | projective p => exact Option.some_inj.trans (mul_inv_eq_zero_iff hq.1).symm
  | completed c => exact Option.some_inj.trans (mul_inv_eq_zero_iff hq.1).symm
  | cached k => exact absurd rfl hv

/-- Settles O41, by the components of each variant. -/
theorem pgetcResult : Obligations.PgetcResult := by
  refine ⟨fun s fd ps k a b c d q hq hk => ?_, fun s fd ps q hq => ?_, fun q hq hv => component?_zero_iff hq hv⟩
  · exact ⟨_, extractP_written (Point.component? k) hq (component?_eq hk), writeF_finish_ok s fd _⟩
  · rw [← finish_tag_eq]
    exact extractP_tag (Point.component? 3) hq rfl

/-! ## `PADDE` as a sequence of three commands (R143) -/

/-- Settles O45: the three commands compute the datapath of `PADDE`, and the last writes the register of the second. -/
theorem paddeResult : Obligations.PaddeResult := by
  intro s pd ps1 ps2 pt e f hpt h1 h2
  have hcvt : exec (.pcvt pt ps2 .cached) s = .next ((s.writeP pt (.cached f.toCached)).finish .ok) :=
    unaryP_written (Point.convert? .cached) h2 rfl
  generalize ht1 : (s.writeP pt (.cached f.toCached)).finish .ok = t1 at hcvt
  have h1' : t1.readP ps1 = some (.extended e) := by
    rw [← ht1, finish_readP, readP_writeP_of_ne s hpt.symm, h1]
  have hpt' : t1.readP pt = some (.cached f.toCached) := by rw [← ht1, finish_readP, readP_writeP_self]
  have hadd : exec (.padd pd ps1 pt) t1 = .next ((t1.writeP pd (.completed (e.addCached f.toCached))).finish .ok) :=
    binaryP_written Point.add? h1' hpt' rfl
  have hext := unaryP_written (pd := pd) (Point.convert? .extended) (writeP_finish_ok t1 pd _).2
    (show Point.convert? .extended (.completed (e.addCached f.toCached)) = some (.extended (e.addExtended f)) from rfl)
  rw [writeP_finish_writeP] at hext
  refine ⟨_, t1, _, _, binaryP_written Point.addExtended? h1 h2 rfl, (writeP_finish_ok s pd _).1, hcvt, hadd, hext,
    fun j hj => ?_, fun h => ?_, ?_⟩
  · rw [← ht1]
    simp only [finish_readP, readP_writeP]
    split_ifs with hjd hjt
    · rfl
    · exact absurd hj (not_or.2 ⟨not_not.2 hjt, hjd⟩)
    · rfl
  · rw [finish_readP, readP_writeP_of_ne s h]
  · rw [← ht1]
    simp only [State.writeP, State.finish, ResultCode.setsSticky, Bool.or_false]

/-! ## What the results denote (R145) -/

theorem smul_two (a : Affine) : Affine.smul 2 a = a.add a := by rw [smul_succ, smul_one]

/-- The value of `PDBL` (R137, R145). -/
theorem double?_spec {q : Point} (hq : q.Valid) (hv : q.variant = .extended ∨ q.variant = .projective) :
    ∃ r, q.double? = some r ∧ r.aff = Affine.smul 2 q.aff := by
  rw [smul_two]
  cases q with
  | extended e => exact ⟨_, rfl, (double_spec (extended_toProjective_spec hq).1).2⟩
  | projective p => exact ⟨_, rfl, (double_spec hq).2⟩
  | completed c => obtain h | h := hv <;> cases h
  | cached k => obtain h | h := hv <;> cases h

/-- The value of `PNEG` (R134, R145). -/
theorem negate_spec {q : Point} (hq : q.Valid) : q.negate.aff = q.aff.neg := by
  cases q with
  | extended e => exact (extended_negate_spec hq).2
  | projective p => exact (projective_negate_spec hq).2
  | completed c => exact (completed_negate_spec hq).2
  | cached k => exact (cached_negate_spec hq).2

/-- What a conversion answers is of the target variant and denotes the same point (R138, R145). -/
theorem convert?_spec {v : Variant} {q r : Point} (hq : q.Valid) (h : q.convert? v = some r) :
    r.variant = v ∧ r.aff = q.aff := by
  unfold Point.convert? at h
  split at h <;> cases h
  · exact ⟨rfl, (toExtended_spec hq).2⟩
  · exact ⟨rfl, (completed_toProjective_spec hq).2⟩
  · exact ⟨rfl, (extended_toProjective_spec hq).2⟩
  · exact ⟨rfl, (toCached_spec hq).2⟩

theorem variant_of_holds {s : State} {p : PReg} {q : Point} {v : Variant} (hq : s.readP p = some q) (h : s.Holds p v) :
    q.variant = v := by
  obtain ⟨q', hq', hv⟩ := h
  obtain rfl := Option.some.inj (hq.symm.trans hq')
  exact hv

/-- Every pair that `PCVT` accepts converts (R138). -/
theorem exists_convert? {s : State} {pd ps : PReg} {v : Variant} {q : Point} (hq : s.readP ps = some q)
    (h : s.TagsAccepted (.pcvt pd ps v)) : ∃ r, q.convert? v = some r := by
  obtain ⟨hc, hv⟩ | ⟨he, hv⟩ := h
  · have hvar := variant_of_holds hq hc
    cases q with
    | completed c => obtain rfl | rfl := hv <;> exact ⟨_, rfl⟩
    | extended e => cases hvar
    | projective p => cases hvar
    | cached k => cases hvar
  · obtain ⟨e, rfl⟩ := exists_extended (variant_of_holds hq he)
    obtain rfl | rfl := hv <;> exact ⟨_, rfl⟩

/-- Settles O46: each command writes the result of its datapath. -/
theorem groupValues : Obligations.GroupValues := by
  intro s pd ps1 ps2 q1 q2 h1 h2 hv1 hv2
  refine ⟨fun ht1 ht2 => ?_, fun ht1 ht2 => ?_, fun ht => ?_, ?_, ?_, fun v hv => ?_⟩
  · obtain ⟨e, rfl⟩ := exists_extended ht1
    obtain ⟨k, rfl⟩ := exists_cached ht2
    exact ⟨denotes_of_writeP (binaryP_written Point.add? h1 h2 rfl) (addCached_spec hv1 hv2).2,
      denotes_of_writeP (binaryP_written Point.sub? h1 h2 rfl) (subCached_spec hv1 hv2).2⟩
  · obtain ⟨e, rfl⟩ := exists_extended ht1
    obtain ⟨f, rfl⟩ := exists_extended ht2
    exact denotes_of_writeP (binaryP_written Point.addExtended? h1 h2 rfl) (addExtended_spec hv1 hv2).2
  · obtain ⟨r, hr, haff⟩ := double?_spec hv1 ht
    exact denotes_of_writeP (unaryP_written Point.double? h1 hr) haff
  · exact denotes_of_writeP (unaryP_written (fun q => some q.negate) h1 rfl) (negate_spec hv1)
  · exact denotes_of_writeP (unaryP_written some h1 rfl) rfl
  · obtain ⟨r, hr⟩ := exists_convert? h1 hv
    exact denotes_of_writeP (unaryP_written (Point.convert? v) h1 hr) (convert?_spec hv1 hr)

/-! ## The encoding of a point (R140) -/

/-- The sign bit lies above the bits of y. -/
theorem xor_two_pow_mul {k y : Nat} (hy : y < 2 ^ k) (b : Nat) : y ^^^ 2 ^ k * b = y + 2 ^ k * b := by
  rw [← Nat.div_add_mod (y ^^^ 2 ^ k * b) (2 ^ k), Nat.xor_div_two_pow, Nat.xor_mod_two_pow, Nat.div_eq_of_lt hy,
    Nat.mod_eq_of_lt hy, Nat.mul_div_cancel_left _ (by positivity), Nat.mul_mod_right, Nat.zero_xor, Nat.xor_zero,
    Nat.add_comm]

theorem toNat_encode (a : Affine) : a.encode.toNat = a.y.val + 2 ^ 255 * (a.x.val % 2) := by
  have hsign : (if a.x.isNeg then 1#256 <<< 255 else 0#256).toNat = 2 ^ 255 * (a.x.val % 2) := by
    split_ifs with h
    · rw [(isNeg_eq_true_iff _).1 h]; rfl
    · rw [(isNeg_eq_false_iff _).1 (Bool.eq_false_of_not_eq_true h)]; rfl
  rw [Affine.encode, BitVec.toNat_xor, toNat_toBytes, hsign, xor_two_pow_mul (a.y.isLt.trans (by decide))]

/-- Reduction drops the sign bit. -/
theorem ofBytes_encode (a : Affine) : Fp.ofBytes a.encode = a.y := by
  have hlt : a.y.val < 2 ^ 255 := a.y.isLt.trans (by decide)
  refine Fin.ext ?_
  rw [val_ofBytes, toNat_encode, Nat.add_mul_mod_self_left, Nat.mod_eq_of_lt hlt, Nat.mod_eq_of_lt a.y.isLt]

theorem getLsbD_encode (a : Affine) : a.encode.getLsbD 255 = a.x.isNeg := by
  have hlt : a.y.val < 2 ^ 255 := a.y.isLt.trans (by decide)
  rw [← BitVec.testBit_toNat, toNat_encode, Nat.add_comm, Nat.testBit_mul_two_pow_add_eq, Nat.testBit_lt_two_pow hlt,
    Bool.xor_false, Nat.mod_mod, Fp.isNeg]

theorem encode?_eq {q : Point} (hv : q.variant = .extended ∨ q.variant = .projective) :
    q.encode? = some q.aff.encode := by
  cases q with
  | extended e => rfl
  | projective p => rfl
  | completed c => obtain h | h := hv <;> cases h
  | cached k => obtain h | h := hv <;> cases h

/-- The next state of `PENC`, and its buffer. -/
theorem exec_penc {s : State} (hmem : s.MemValid) {ps : PReg} {q : Point} (hq : s.readP ps = some q)
    (hv : q.variant = .extended ∨ q.variant = .projective) (bd : BReg) :
    ∃ t, exec (.penc bd ps) s = .next t ∧ s.EndsOk t ∧ t.cf = s.cf ∧ t.readB bd = q.aff.encode :=
  ⟨_, storeP_written Point.encode? hq (encode?_eq hv), endsOk_finish (writeB_sticky ..),
    by rw [finish_cf, writeB_cf], by rw [finish_readB, readB_writeB hmem.1, if_pos rfl]⟩

/-- Settles O42: the buffer holds the encoding of the affine point. -/
theorem pencResult : Obligations.PencResult := by
  intro s bd ps q hmem hq hv
  obtain ⟨t, ht, hok, hcf, hbuf⟩ := exec_penc hmem hq hv bd
  exact ⟨t, ht, hok, hcf, by rw [hbuf, toNat_encode]⟩

/-! ## The roots of `v * x * x = u` (R141, R146) -/

section Roots

variable {u v x x' : Fp}

theorem root_neg (h : v * x * x = u) : v * -x * -x = u := by
  rw [← h]
  apply toZ_injective
  simp only [toZ_mul, toZ_neg]
  ring

theorem root_eq_zero_iff (hv : v ≠ 0) (h : v * x * x = u) : u = 0 ↔ x = 0 := by
  rw [← h, mul_eq_zero_iff, mul_eq_zero_iff, or_iff_right hv, or_self]

/-- Two roots differ in sign only. -/
theorem root_eq_or_eq_neg (hv : v ≠ 0) (h : v * x * x = u) (h' : v * x' * x' = u) : x' = x ∨ x' = -x := by
  have := fact_prime
  have hz := congrArg Laws.toZ (h'.trans h.symm)
  simp only [toZ_mul, mul_assoc] at hz
  have hsq := mul_left_cancel₀ (toZ_ne_zero.2 hv) hz
  rw [← toZ_inj, ← toZ_inj, toZ_neg]
  exact mul_self_eq_mul_self_iff.1 hsq

/-- p is odd, so the sign tells a non-zero element from its negative (R117 (g)). -/
theorem isNeg_neg {a : Fp} (ha : a ≠ 0) : (-a).isNeg = !a.isNeg := by
  have h := negativeParity.2 a ha
  cases hs : a.isNeg with
  | true => exact h.1 hs
  | false => exact Bool.eq_true_of_not_eq_false fun hn => absurd (h.2 hn) (by rw [hs]; decide)

/-- The sign of a root decides which one it is. -/
theorem root_unique (hv : v ≠ 0) (h : v * x * x = u) (h' : v * x' * x' = u) (hs : x ≠ 0 → x'.isNeg = x.isNeg) :
    x' = x := by
  obtain rfl | rfl := root_eq_or_eq_neg hv h h'
  · rfl
  · by_cases hx : x = 0
    · rw [hx]; rfl
    · have hsign := hs hx
      rw [isNeg_neg hx] at hsign
      exact absurd hsign (Bool.not_ne_self _)

/-- The candidate of R146, when x is a root: x times s^((p-1)/4), for s = x * v^4. -/
theorem toZ_rootCandidate (hu : Laws.toZ u = Laws.toZ v * Laws.toZ x * Laws.toZ x) : Laws.toZ (rootCandidate u v) =
    (Laws.toZ x * Laws.toZ v ^ 4) ^ ((fieldPrime - 1) / 4) * Laws.toZ x := by
  have hpow := isPower_pow58 (v * v * v * (v * v * v) * v * u)
  have hsq : Laws.toZ (v * v * v * (v * v * v) * v * u) = (Laws.toZ x * Laws.toZ v ^ 4) ^ 2 := by
    simp only [toZ_mul, hu]; ring
  rw [IsPower, hsq, ← pow_mul, show 2 * ((fieldPrime - 5) / 8) = (fieldPrime - 5) / 4 by decide] at hpow
  rw [show (fieldPrime - 1) / 4 = (fieldPrime - 5) / 4 + 1 by decide, pow_succ]
  simp only [rootCandidate, toZ_mul, hpow, hu]
  ring

/-- Squared, s^((p-1)/4) is s^((p-1)/2), which is 1 or -1 (or s = 0, and then u = 0): one of the two checks of R146
passes. -/
theorem rootCandidate_sq (h : v * x * x = u) :
    rootCandidate u v * rootCandidate u v * v - u = 0 ∨ rootCandidate u v * rootCandidate u v * v + u = 0 := by
  have := fact_prime
  have hu : Laws.toZ u = Laws.toZ v * Laws.toZ x * Laws.toZ x := by rw [← h, toZ_mul, toZ_mul]
  have hsq : Laws.toZ (rootCandidate u v * rootCandidate u v * v) =
      (Laws.toZ x * Laws.toZ v ^ 4) ^ (fieldPrime / 2) * Laws.toZ u := by
    rw [show fieldPrime / 2 = (fieldPrime - 1) / 4 * 2 by decide, pow_mul, toZ_mul, toZ_mul, toZ_rootCandidate hu, hu]
    ring
  rw [← toZ_eq_zero, ← toZ_eq_zero, toZ_sub, toZ_add, hsq]
  by_cases hs : Laws.toZ x * Laws.toZ v ^ 4 = 0
  · left
    have hu0 : Laws.toZ u = 0 := by
      obtain hx | hv := mul_eq_zero.1 hs
      · rw [hu, hx, mul_zero]
      · rw [hu, eq_zero_of_pow_eq_zero hv, zero_mul, zero_mul]
    rw [hu0, mul_zero, sub_zero]
  · obtain h1 | h1 := ZMod.pow_div_two_eq_neg_one_or_one fieldPrime hs
    · left; rw [h1]; ring
    · right; rw [h1]; ring

/-- The schedule of R146 finds a root when there is one. -/
theorem squareRoot?_complete (h : v * x * x = u) : ∃ r, squareRoot? u v = some r := by
  have hcand := rootCandidate_sq h
  unfold squareRoot?
  simp only
  split_ifs with h1 h2
  · exact ⟨_, rfl⟩
  · exact ⟨_, rfl⟩
  · exact absurd hcand (by simp [h1, h2])

end Roots

/-! ## Decoding (R141) -/

/-- -1 is a square and d is not, so `d*y*y` is never -1. -/
theorem decodeV_ne_zero (y : Fp) : decodeV y ≠ 0 := by
  have := fact_prime
  intro h
  have h := congrArg Laws.toZ h
  have hi := congrArg Laws.toZ sqrtMinusOne_sq
  simp only [decodeV, toZ_add, toZ_mul, toZ_one, toZ_zero, toZ_neg] at h hi
  have hy : Laws.toZ y ≠ 0 := by
    intro hy
    rw [hy] at h
    simp at h
  refine toZ_curveD_not_square ⟨Laws.toZ sqrtMinusOne / Laws.toZ y, ?_⟩
  field_simp
  linear_combination h - hi

theorem decodePoint?_of_squareRoot? {b : Bytes32} {x : Fp}
    (h : squareRoot? (decodeU (Fp.ofBytes b)) (decodeV (Fp.ofBytes b)) = some x) :
    decodePoint? b = some ⟨if x.isNeg = b.getLsbD 255 then x else -x, Fp.ofBytes b⟩ := by
  unfold decodePoint?
  simp only
  rw [h]

theorem decodePoint?_of_no_squareRoot {b : Bytes32}
    (h : squareRoot? (decodeU (Fp.ofBytes b)) (decodeV (Fp.ofBytes b)) = none) : decodePoint? b = none := by
  unfold decodePoint?
  simp only
  rw [h]

/-- A point decoded has the y of the string, is a root of the equation of R141, and has the string's sign. -/
theorem decodePoint?_sound {b : Bytes32} {a : Affine} (h : decodePoint? b = some a) :
    a.y = Fp.ofBytes b ∧ decodeV a.y * a.x * a.x = decodeU a.y ∧ (a.x ≠ 0 → a.x.isNeg = b.getLsbD 255) := by
  cases hr : squareRoot? (decodeU (Fp.ofBytes b)) (decodeV (Fp.ofBytes b)) with
  | none => cases (decodePoint?_of_no_squareRoot hr).symm.trans h
  | some x =>
    rw [decodePoint?_of_squareRoot? hr] at h
    obtain rfl := Option.some.inj h
    have hx := squareRoot?_sound hr
    refine ⟨rfl, ?_, ?_⟩
    · simp only
      split_ifs
      · exact hx
      · exact root_neg hx
    · simp only
      split_ifs with hs
      · exact fun _ => hs
      · intro hne
        have hx0 : x ≠ 0 := by rintro rfl; exact hne rfl
        rw [isNeg_neg hx0]
        exact (Bool.eq_not.2 (Ne.symm hs)).symm

/-- A string that encodes a point decodes (R141). -/
theorem exists_decodePoint? {b : Bytes32} (h : Encodes b) : ∃ a, decodePoint? b = some a := by
  obtain ⟨x, hx⟩ := h
  obtain ⟨r, hr⟩ := squareRoot?_complete hx
  exact ⟨_, decodePoint?_of_squareRoot? hr⟩

/-- Decoding answers the one solution with the string's sign (R141). -/
theorem decodePoint?_eq_some_iff {b : Bytes32} {a : Affine} : decodePoint? b = some a ↔
    a.y = Fp.ofBytes b ∧ decodeV a.y * a.x * a.x = decodeU a.y ∧ (a.x ≠ 0 → a.x.isNeg = b.getLsbD 255) := by
  refine ⟨decodePoint?_sound, fun ⟨hy, hx, hs⟩ => ?_⟩
  obtain ⟨a', ha'⟩ := exists_decodePoint? ⟨a.x, hy ▸ hx⟩
  obtain ⟨hy', hx', hs'⟩ := decodePoint?_sound ha'
  have hyy : a'.y = a.y := hy'.trans hy.symm
  rw [hyy] at hx'
  have hxx : a'.x = a.x := by
    refine root_unique (decodeV_ne_zero a.y) hx hx' fun hne => ?_
    have hne' : a'.x ≠ 0 := mt (root_eq_zero_iff (decodeV_ne_zero _) hx').2
      (mt (root_eq_zero_iff (decodeV_ne_zero _) hx).1 hne)
    rw [hs hne, hs' hne']
  rw [ha', show a' = a from affine_ext (congrArg Laws.toZ hxx) (congrArg Laws.toZ hyy)]

theorem decodePoint?_eq_none {b : Bytes32} (h : ¬ Encodes b) : decodePoint? b = none := by
  refine Option.eq_none_iff_forall_ne_some.2 fun a ha => h ?_
  obtain ⟨hy, hx, -⟩ := decodePoint?_sound ha
  exact ⟨a.x, hy ▸ hx⟩

/-- A point of the curve solves the equation of R141. -/
theorem root_of_onCurve {a : Affine} (h : a.OnCurve) : decodeV a.y * a.x * a.x = decodeU a.y := by
  have := fact_prime
  rw [onCurve_iff, Edwards.Curve] at h
  apply toZ_injective
  simp only [decodeU, decodeV, toZ_mul, toZ_add, toZ_sub, toZ_one]
  linear_combination -h

/-- Decoding undoes encoding on the curve (R140, R141). -/
theorem decodePoint?_encode {a : Affine} (h : a.OnCurve) : decodePoint? a.encode = some a :=
  decodePoint?_eq_some_iff.2 ⟨(ofBytes_encode a).symm, root_of_onCurve h, fun _ => (getLsbD_encode a).symm⟩

/-! ## `PDEC` and `PDECNV` (R141, R142) -/

section Decoding

variable {s : State} {bs : BReg} {a : Affine}

theorem exec_pdec (h : decodePoint? (s.readB bs) = some a) (pd : PReg) :
    exec (.pdec pd bs) s = .next ((s.writeP pd (.extended (Extended.ofAffine a))).finish .ok) := by
  simp only [exec, execPdec]
  exact decodeP_written _ (by rw [h, Option.map_some])

theorem exec_pdec_fail (h : decodePoint? (s.readB bs) = none) (pd : PReg) :
    exec (.pdec pd bs) s = .next ((s.emptyP pd).finish .decode) := by
  simp only [exec, execPdec]
  exact decodeP_fail _ (by rw [h, Option.map_none])

theorem exec_pdecnv (h : decodePoint? (s.readB bs) = some a) (pd : PReg) :
    exec (.pdecnv pd bs) s = .next ((s.writeP pd (.extended (Extended.ofAffine a).negate)).finish .ok) := by
  simp only [exec, execPdecnv]
  exact decodeP_written _ (by rw [h, Option.map_some])

theorem exec_pdecnv_fail (h : decodePoint? (s.readB bs) = none) (pd : PReg) :
    exec (.pdecnv pd bs) s = .next ((s.emptyP pd).finish .decode) := by
  simp only [exec, execPdecnv]
  exact decodeP_fail _ (by rw [h, Option.map_none])

end Decoding

/-- Settles O43: `decodePoint?` answers the solution of R141, and `none` when there is none. -/
theorem pdecResult : Obligations.PdecResult := by
  rintro s pd bs y u v hy rfl rfl
  obtain rfl : y = Fp.ofBytes (s.readB bs) := Fin.ext hy
  have hv := decodeV_ne_zero (Fp.ofBytes (s.readB bs))
  refine ⟨hv, fun hnone => ?_, fun hex => ?_⟩
  · exact ⟨_, exec_pdec_fail (decodePoint?_eq_none hnone) pd, rfl, readP_emptyP_self s pd⟩
  · obtain ⟨⟨x, y⟩, hd⟩ := exists_decodePoint? hex
    obtain ⟨rfl, hx, hs⟩ := decodePoint?_sound hd
    obtain ⟨hok, hread⟩ := writeP_finish_ok s pd (.extended (Extended.ofAffine ⟨x, Fp.ofBytes (s.readB bs)⟩))
    refine ⟨_, x, exec_pdec hd pd, hok, hread, hx, (root_eq_zero_iff hv hx).1,
      fun hu => hs (mt (root_eq_zero_iff hv hx).2 hu), fun x' hx' hs' => ?_⟩
    have hd' : decodePoint? (s.readB bs) = some ⟨x', Fp.ofBytes (s.readB bs)⟩ :=
      decodePoint?_eq_some_iff.2 ⟨rfl, hx', fun _ => hs'⟩
    exact congrArg Affine.x (Option.some.inj (hd'.symm.trans hd))

/-- Settles O44: both commands decode alike, and what `PDECNV` writes is what `PNEG` makes of what `PDEC` writes. -/
theorem pdecnvResult : Obligations.PdecnvResult := by
  refine ⟨fun s t pd bs ht => ?_, fun s pd bs x y h => ⟨_, exec_pdecnv h pd, writeP_finish_ok s pd _⟩⟩
  cases hd : decodePoint? (s.readB bs) with
  | none =>
    obtain rfl := Host.Outcome.next.inj ((exec_pdec_fail hd pd).symm.trans ht)
    exact ⟨fun hok => (nomatch hok), fun _ => exec_pdecnv_fail hd pd⟩
  | some a =>
    obtain rfl := Host.Outcome.next.inj ((exec_pdec hd pd).symm.trans ht)
    refine ⟨fun _ => ?_, fun hne => absurd rfl hne⟩
    have hread := (writeP_finish_ok s pd (.extended (Extended.ofAffine a))).2
    have hneg := unaryP_written (pd := pd) (fun q => some q.negate) hread rfl
    rw [writeP_finish_writeP] at hneg
    exact (exec_pdecnv hd pd).trans hneg.symm

theorem aff_onCurve {q : Point} (hq : q.Valid) : q.aff.OnCurve := by
  cases q with
  | extended e => exact hq.2.1
  | projective p => exact hq.2
  | completed c => exact hq.2.2
  | cached k => exact hq.2.1

/-- Settles O47: `PENC` leaves the encoding of the affine point in the buffer, and `PDEC` decodes it. -/
theorem pdecAfterPenc : Obligations.PdecAfterPenc := by
  intro s bd ps pd q hmem hq hvalid hv
  obtain ⟨t, ht, -, -, hbuf⟩ := exec_penc hmem hq hv bd
  exact ⟨t, _, ht, exec_pdec (hbuf ▸ decodePoint?_encode (aff_onCurve hvalid)) pd, writeP_finish_ok t pd _⟩

end Sys2Proof.Proofs

/-! PROOFS of the statements of the scalar commands (spec/42_scalar.md): the recoding (R171), the selection from the
table (R173, R174), and the two scalar multiplications (R172, R175 to R177). -/

namespace Sys2Proof.Proofs

open Sys2Proof.Machine Sys2Proof.Laws

/-! ## The recoding (R171) -/

@[simp] theorem digit_cons_zero (b : ℤ) (e : List ℤ) : digit (b :: e) 0 = b := rfl

@[simp] theorem digit_cons_succ (b : ℤ) (e : List ℤ) (i : ℕ) : digit (b :: e) (i + 1) = digit e i := rfl

theorem length_recodeFrom : ∀ n s c, (recodeFrom n s c).length = n + 1
  | 0, _, _ => rfl
  | n + 1, _, _ => congrArg (· + 1) (length_recodeFrom n _ _)

/-- Every digit but the top one, whatever the carry into the first (R171). -/
theorem digit_recodeFrom_range : ∀ {n s c}, c ≤ 1 → ∀ i < n,
    -8 ≤ digit (recodeFrom n s c) i ∧ digit (recodeFrom n s c) i ≤ 7
  | n + 1, s, c, hc, 0, _ => by
    simp only [recodeFrom, digit_cons_zero]
    omega
  | n + 1, s, c, hc, i + 1, hi => by
    simp only [recodeFrom, digit_cons_succ]
    exact digit_recodeFrom_range (by omega) i (by omega)

/-- The top digit is the top nibble, at most 7, and the carry into it (R171). -/
theorem digit_recodeFrom_top : ∀ {n s c}, c ≤ 1 → s < 8 * 16 ^ n →
    0 ≤ digit (recodeFrom n s c) n ∧ digit (recodeFrom n s c) n ≤ 8
  | 0, s, c, hc, hs => by
    simp only [recodeFrom, digit_cons_zero]
    omega
  | n + 1, s, c, hc, hs => by
    simp only [recodeFrom, digit_cons_succ]
    exact digit_recodeFrom_top (by omega) (by rw [pow_succ] at hs; omega)

/-- A digit and the carry out of it make up the nibble and the carry into it, so nothing of the scalar is lost. -/
theorem sum_digit_recodeFrom : ∀ {n s c}, s < 16 ^ (n + 1) →
    ∑ i ∈ Finset.range (n + 1), digit (recodeFrom n s c) i * 16 ^ i = ((s + c : ℕ) : ℤ)
  | 0, s, c, hs => by
    rw [zero_add, pow_one] at hs
    rw [Finset.sum_range_one, recodeFrom, digit_cons_zero, Nat.mod_eq_of_lt hs, pow_zero, mul_one]
  | n + 1, s, c, hs => by
    have ih := sum_digit_recodeFrom (n := n) (s := s / 16) (c := (s % 16 + c + 8) / 16)
      (by rw [pow_succ] at hs; omega)
    simp only [Finset.sum_range_succ' _ (n + 1), recodeFrom, digit_cons_succ, digit_cons_zero, pow_succ, pow_zero,
      ← mul_assoc, ← Finset.sum_mul, ih]
    omega

/-- Settles O50: the recoding is the loop of R171 on 63 digits and the top one, no carry into the first. -/
theorem recodeDigits : Obligations.RecodeDigits := fun s hs =>
  ⟨length_recodeFrom 63 s 0, digit_recodeFrom_range zero_le_one, digit_recodeFrom_top zero_le_one hs,
    sum_digit_recodeFrom (hs.trans (by decide))⟩

/-- A digit of the recoding selects an entry of its row: |e[i]| is at most 8 (R171, R174). -/
theorem natAbs_digit_recode {s : ℕ} (hs : s < 2 ^ 255) {i : ℕ} (hi : i < 64) :
    (digit (recode s) i).natAbs ≤ 8 := by
  obtain ⟨-, hlow, htop, -⟩ := recodeDigits s hs
  obtain h | rfl : i < 63 ∨ i = 63 := by omega
  · have := hlow i h
    omega
  · omega

/-! ## Signed multiples -/

/-- `[z]P` for a signed z: the negative of `[|z|]P` when z < 0, as the selection takes it (R174). -/
def signedMul (z : ℤ) (a : Affine) : Affine :=
  if z < 0 then (Affine.smul z.natAbs a).neg else Affine.smul z.natAbs a

theorem signedMul_natCast (n : ℕ) (a : Affine) : signedMul n a = Affine.smul n a := if_neg (by omega)

theorem neg_identity : Affine.identity.neg = Affine.identity := by decide

theorem neg_add_affine (a b : Affine) : (a.add b).neg = a.neg.add b.neg := by
  have := fact_prime
  apply affine_ext
  · simp only [Affine.neg, toZ_neg, toZ_add_x, Edwards.addX]
    ring
  · rw [toZ_add_y, Edwards.addY]
    simp only [Affine.neg, toZ_neg, toZ_add_y, Edwards.addY]
    ring

theorem signedMul_neg_natCast (n : ℕ) (a : Affine) : signedMul (-n) a = (Affine.smul n a).neg := by
  cases n with
  | zero => exact neg_identity.symm
  | succ n => exact if_pos (by omega)

section Multiples

variable {a : Affine} (ha : a.OnCurve)
include ha

theorem onCurve_signedMul (z : ℤ) : (signedMul z a).OnCurve := by
  unfold signedMul
  split_ifs
  · exact onCurve_neg (onCurve_smul ha _)
  · exact onCurve_smul ha _

theorem signedMul_add_one (z : ℤ) : signedMul (z + 1) a = (signedMul z a).add a := by
  cases z with
  | ofNat n => exact (signedMul_natCast (n + 1) a).trans (congrArg (·.add a) (signedMul_natCast n a).symm)
  | negSucc n =>
    have hn := onCurve_neg (onCurve_smul ha n)
    rw [Int.negSucc_eq, neg_add, neg_add_cancel_right, ← neg_add, ← Nat.cast_succ, signedMul_neg_natCast,
      signedMul_neg_natCast, smul_succ, neg_add_affine, add_assoc_affine hn (onCurve_neg ha) ha,
      add_comm_affine a.neg a, add_neg ha, add_identity]

theorem signedMul_sub_one (z : ℤ) : signedMul (z - 1) a = (signedMul z a).add a.neg := by
  have h := signedMul_add_one ha (z - 1)
  rw [sub_add_cancel] at h
  rw [h, add_assoc_affine (onCurve_signedMul ha _) ha (onCurve_neg ha), add_neg ha, add_identity]

theorem signedMul_add (y z : ℤ) : signedMul (y + z) a = (signedMul y a).add (signedMul z a) := by
  have hy := onCurve_signedMul ha y
  induction z using Int.induction_on with
  | zero => exact (congrArg (signedMul · a) (add_zero y)).trans (add_identity _).symm
  | succ n ih =>
    rw [← add_assoc, signedMul_add_one ha, ih, signedMul_add_one ha, add_assoc_affine hy (onCurve_signedMul ha _) ha]
  | pred n ih =>
    rw [← add_sub_assoc, signedMul_sub_one ha, ih, signedMul_sub_one ha,
      add_assoc_affine hy (onCurve_signedMul ha _) (onCurve_neg ha)]

theorem smul_signedMul (z : ℤ) : ∀ n : ℕ, Affine.smul n (signedMul z a) = signedMul (n * z) a
  | 0 => (congrArg (signedMul · a) (zero_mul z)).symm
  | n + 1 => by rw [smul_succ, smul_signedMul z n, ← signedMul_add ha, Nat.cast_succ, add_one_mul]

end Multiples

/-! ## The selection (R173, R174) -/

/-- Going through the entries of a row keeps the one whose index is |b|, and the identity when b is 0. -/
theorem foldl_select (f : ℕ → Cached) (k : Cached) (b : ℕ) : ∀ n,
    (List.range n).foldl (fun t j => if b = j + 1 then f j else t) k = if 0 < b ∧ b ≤ n then f (b - 1) else k
  | 0 => (if_neg (by omega)).symm
  | n + 1 => by
    rw [List.range_succ, List.foldl_append, foldl_select f k b n, List.foldl_cons, List.foldl_nil]
    obtain rfl | hb := eq_or_ne b (n + 1)
    · rw [if_pos rfl, if_pos (by omega), Nat.add_sub_cancel]
    · rw [if_neg hb]
      exact if_congr (by omega) rfl rfl

/-- The sign of the digit is applied to what is kept for its absolute value. -/
theorem select_eq (i : ℕ) (b : ℤ) : select i b =
    if b < 0 then (select i b.natAbs).negate else select i b.natAbs := by
  simp only [select, Int.natAbs_natCast, if_neg (Int.natCast_nonneg _).not_gt]

theorem select_natCast_aff {i : ℕ} (hi : i < 32) {n : ℕ} (hn : n ≤ 8) :
    (select i n).aff = Affine.smul (n * 256 ^ i) Affine.base := by
  have hsel : select i n = if 0 < n ∧ n ≤ 8 then tableEntry i (n - 1) else Cached.identity := by
    rw [← foldl_select, select, if_neg (Int.natCast_nonneg n).not_gt, Int.natAbs_natCast]
  cases n with
  | zero => rw [hsel, Nat.zero_mul]; exact cached_identity_spec.2
  | succ j =>
    rw [hsel, if_pos ⟨by omega, hn⟩, Nat.add_sub_cancel, tableEntry_eq hi (by omega)]
    exact (cached_ofAffine_spec (onCurve_smul onCurve_base _)).2

/-- Settles O51: the entry of |b| by the table, and its negative when b < 0. -/
theorem selectValue : Obligations.SelectValue := by
  intro i b hi hlo hhi
  have haff := select_natCast_aff hi (n := b.natAbs) (by omega)
  refine ⟨select_valid hi b, ?_⟩
  rw [select_eq]
  split_ifs
  · rw [(cached_negate_spec (select_valid hi _)).2, haff]
  · exact haff

theorem select_aff {i : ℕ} (hi : i < 32) {b : ℤ} (hb : b.natAbs ≤ 8) :
    (select i b).aff = signedMul (b * 256 ^ i) Affine.base := by
  have hneg : b * 256 ^ i < 0 ↔ b < 0 := lt_iff_lt_of_le_iff_le (mul_nonneg_iff_of_pos_right (by positivity))
  rw [(selectValue i b hi (by omega) (by omega)).2, signedMul, Int.natAbs_mul, Int.natAbs_pow]
  simp only [hneg]
  rfl

/-! ## Fixed-base (R172, R175) -/

/-- Four doublings (R172, R176). -/
theorem times16_aff {h : Extended} (hh : h.Valid) : (times16 h).aff = Affine.smul 16 h.aff := by
  obtain ⟨h0, e0⟩ := extended_toProjective_spec hh
  obtain ⟨h1, e1⟩ := double_toProjective_spec h0
  obtain ⟨h2, e2⟩ := double_toProjective_spec h1
  obtain ⟨h3, e3⟩ := double_toProjective_spec h2
  obtain ⟨h4, e4⟩ := double_spec h3
  have hdouble := smul_two_mul hh.2.1
  rw [hdouble 8, hdouble 4, hdouble 2, hdouble 1, smul_one, ← e0, ← e1, ← e2, ← e3, ← e4]
  exact (toExtended_spec h4).2

/-- The loop of R172 over the first n rows, with the digit `d r` for row r. -/
def rowLoop (d : ℕ → ℤ) (n : ℕ) (h : Extended) : Extended :=
  (List.range n).foldl (fun h r => addStep h (select r (d r))) h

theorem oddLoop_eq (e : List ℤ) (h : Extended) : oddLoop e h = rowLoop (fun r => digit e (2 * r + 1)) 32 h := rfl

theorem evenLoop_eq (e : List ℤ) (h : Extended) : evenLoop e h = rowLoop (fun r => digit e (2 * r)) 32 h := rfl

theorem rowLoop_succ (d : ℕ → ℤ) (n : ℕ) (h : Extended) :
    rowLoop d (n + 1) h = addStep (rowLoop d n h) (select n (d n)) := by
  rw [rowLoop, List.range_succ, List.foldl_append]
  rfl

/-- The loop adds `[d 0 + d 1 * 256 + ...]B`. -/
theorem rowLoop_spec {d : ℕ → ℤ} (hd : ∀ r < 32, (d r).natAbs ≤ 8) {h : Extended} (hh : h.Valid) {m : ℤ}
    (hm : h.aff = signedMul m Affine.base) : ∀ n ≤ 32, (rowLoop d n h).Valid ∧
    (rowLoop d n h).aff = signedMul (m + ∑ r ∈ Finset.range n, d r * 256 ^ r) Affine.base
  | 0, _ => ⟨hh, by rw [Finset.sum_range_zero, add_zero]; exact hm⟩
  | n + 1, hn => by
    obtain ⟨hv, haff⟩ := rowLoop_spec hd hh hm n (by omega)
    obtain ⟨hv', haff'⟩ := addStep_spec hv (select_valid hn (d n))
    rw [rowLoop_succ]
    refine ⟨hv', ?_⟩
    rw [haff', haff, select_aff hn (hd n hn), ← signedMul_add onCurve_base, Finset.sum_range_succ, add_assoc]

/-- The digits at odd places, times 16, and those at even places make up all of them. -/
theorem sum_range_two_mul_digits (d : ℕ → ℤ) : ∀ n, ∑ i ∈ Finset.range (2 * n), d i * 16 ^ i =
    16 * ∑ r ∈ Finset.range n, d (2 * r + 1) * 256 ^ r + ∑ r ∈ Finset.range n, d (2 * r) * 256 ^ r
  | 0 => rfl
  | n + 1 => by
    have hpow : (16 : ℤ) ^ (2 * n) = 256 ^ n := by rw [pow_mul]; norm_num
    rw [show 2 * (n + 1) = 2 * n + 1 + 1 by ring, Finset.sum_range_succ, Finset.sum_range_succ,
      sum_range_two_mul_digits d n, Finset.sum_range_succ, Finset.sum_range_succ, pow_succ, hpow]
    ring

/-- The value of the fixed-base multiplication: the odd digits, times 16, and then the even ones (R172, R175). -/
theorem smulBase_aff {s : ℕ} (hs : s < 2 ^ 255) : (smulBase s).aff = Affine.smul s Affine.base := by
  have hd {i : ℕ} (hi : i < 64) := natAbs_digit_recode hs hi
  obtain ⟨-, -, -, hsum⟩ := recodeDigits s hs
  rw [sum_range_two_mul_digits _ 32] at hsum
  obtain ⟨hodd, hoddaff⟩ := rowLoop_spec (d := fun r => digit (recode s) (2 * r + 1)) (fun r hr => hd (by omega))
    extended_identity_spec.1 (m := 0) extended_identity_spec.2 32 le_rfl
  have h16 := times16_aff hodd
  rw [hoddaff, smul_signedMul onCurve_base, zero_add, Nat.cast_ofNat] at h16
  obtain ⟨-, hevenaff⟩ := rowLoop_spec (d := fun r => digit (recode s) (2 * r)) (fun r hr => hd (by omega))
    (times16_valid hodd) h16 32 le_rfl
  rw [smulBase, oddLoop_eq, evenLoop_eq, hevenaff, hsum, signedMul_natCast]

theorem smulBase?_of_lt {n : ℕ} (h : n < 2 ^ 255) : smulBase? n = some (.extended (smulBase n)) := if_pos h

theorem smulBase?_of_ge {n : ℕ} (h : 2 ^ 255 ≤ n) : smulBase? n = none := if_neg h.not_gt

theorem getLsbD_last (b : Bytes32) : b.getLsbD 255 = decide (2 ^ 255 ≤ b.toNat) := BitVec.msb_eq_decide b

theorem finish_range_eq (s : State) : s.finish .range = { s with err := .range, sticky := true } := by
  simp only [State.finish, ResultCode.setsSticky, Bool.or_true]

theorem exec_smulb {s : State} {bs : BReg} (h : (s.readB bs).toNat < 2 ^ 255) (pd : PReg) :
    exec (.smulb pd bs) s = .next ((s.writeP pd (.extended (smulBase (s.readB bs).toNat))).finish .ok) := by
  rw [exec, execSmulb, scalarP_written smulBase? (smulBase?_of_lt h)]

theorem exec_smulb_range {s : State} {bs : BReg} (h : 2 ^ 255 ≤ (s.readB bs).toNat) (pd : PReg) :
    exec (.smulb pd bs) s = .next (s.finish .range) := by
  rw [exec, execSmulb, scalarP_range smulBase? (smulBase?_of_ge h)]

/-- Settles O52: bit 255 of the buffer says whether the scalar is below 2^255. -/
theorem smulbResult : Obligations.SmulbResult := by
  intro s pd bs
  rw [getLsbD_last, decide_eq_false_iff_not, decide_eq_true_iff, not_le]
  refine ⟨fun hlt => ?_, fun hge => ?_⟩
  · obtain ⟨hok, hread⟩ := writeP_finish_ok s pd (.extended (smulBase (s.readB bs).toNat))
    exact ⟨_, _, exec_smulb hlt pd, hok, hread, smulBase_valid _, smulBase_aff hlt⟩
  · rw [← finish_range_eq]
    exact exec_smulb_range hge pd

/-! ## Variable-time (R176, R177) -/

/-- `C[j+1]` is the one at index j: each entry adds the operand once more (R176). -/
theorem multiplesFrom_aff {c : Cached} (hc : c.Valid) (n : ℕ) {e : Extended} (he : e.Valid) {m : ℕ}
    (hm : e.aff = Affine.smul m c.aff) {j : ℕ} (hj : j < n) :
    ((multiplesFrom c n e).getD j Cached.identity).aff = Affine.smul (m + j) c.aff := by
  induction n generalizing e m j with
  | zero => omega
  | succ n ih =>
    cases j with
    | zero => exact (toCached_spec he).2.trans hm
    | succ j =>
      obtain ⟨hv, haff⟩ := addStep_spec he hc
      rw [hm, ← smul_succ] at haff
      rw [multiplesFrom, List.getD_cons_succ, ih hv haff (by omega), Nat.add_right_comm, Nat.add_assoc]

theorem multiple_multiples_aff {e : Extended} (he : e.Valid) {w : ℕ} (hpos : 0 < w) (hw : w < 16) :
    (multiple (multiples e) w).aff = Affine.smul w e.aff := by
  obtain ⟨hc, hcaff⟩ := toCached_spec he
  have hone : e.aff = Affine.smul 1 e.toCached.aff := by rw [smul_one, hcaff]
  have h := multiplesFrom_aff hc 15 he hone (j := w - 1) (by omega)
  rwa [hcaff, Nat.add_sub_cancel' hpos] at h

section Windows

variable {e : Extended} (he : e.Valid)
include he

theorem multiples_valid : ∀ k ∈ multiples e, k.Valid := multiplesFrom_valid (toCached_spec he).1 15 he

/-- One turn of the loop of R176 shifts the scalar so far by a nibble and adds the next one. -/
theorem windowStep_aff {h : Extended} (hh : h.Valid) {n w : ℕ} (hn : h.aff = Affine.smul n e.aff) (hw : w < 16) :
    (windowStep (multiples e) h w).aff = Affine.smul (16 * n + w) e.aff := by
  have h16 : (times16 h).aff = Affine.smul (16 * n) e.aff := by rw [times16_aff hh, hn, smul_mul he.2.1]
  unfold windowStep
  split_ifs with hw0
  · rw [h16, hw0, Nat.add_zero]
  · rw [(addStep_spec (times16_valid hh) (multiple_valid (multiples_valid he) w)).2, h16,
      multiple_multiples_aff he (Nat.pos_of_ne_zero hw0) hw, smul_add he.2.1]

/-- The loop over the low k nibbles of s, most significant first. -/
theorem foldl_windowStep_aff (s k : ℕ) {h : Extended} (hh : h.Valid) {n : ℕ} (hn : h.aff = Affine.smul n e.aff) :
    (((List.range k).reverse.map (fun i => s / 16 ^ i % 16)).foldl (windowStep (multiples e)) h).aff =
      Affine.smul (n * 16 ^ k + s % 16 ^ k) e.aff := by
  induction k generalizing h n with
  | zero => rw [pow_zero, mul_one, Nat.mod_one]; exact hn
  | succ k ih =>
    have hstep := windowStep_aff he hh hn (Nat.mod_lt (s / 16 ^ k) (by decide))
    have hvalid := windowStep_valid (multiples_valid he) hh (s / 16 ^ k % 16)
    have hscalar : (16 * n + s / 16 ^ k % 16) * 16 ^ k + s % 16 ^ k = n * 16 ^ (k + 1) + s % 16 ^ (k + 1) := by
      rw [Nat.mod_pow_succ]
      ring
    rw [List.range_succ, List.reverse_append, List.reverse_singleton, List.singleton_append, List.map_cons,
      List.foldl_cons, ih hvalid hstep, hscalar]

/-- The value of the variable-time multiplication (R176, R177). -/
theorem smulVar_aff {s : ℕ} (hs : s < 2 ^ 256) : (smulVar s e).aff = Affine.smul s e.aff := by
  have h := foldl_windowStep_aff he s 64 (n := 0) extended_identity_spec.1 extended_identity_spec.2
  rwa [Nat.zero_mul, Nat.zero_add, Nat.mod_eq_of_lt (hs.trans_eq (by norm_num))] at h

end Windows

theorem times16_identity : times16 Extended.identity = Extended.identity := by decide

/-- Every nibble of 0 is 0, and four doublings keep the representation of the identity as it is (R177). -/
theorem smulVar_zero (e : Extended) : smulVar 0 e = Extended.identity := by
  refine List.foldlRecOn (motive := (· = Extended.identity)) _ _ rfl fun h hh w hw => ?_
  obtain ⟨i, -, rfl⟩ := List.mem_map.1 hw
  rw [hh, windowStep, if_pos (by rw [Nat.zero_div]), times16_identity]

/-- Settles O53: the loop starts from the identity, and every 256-bit scalar is its 64 nibbles. -/
theorem smulvResult : Obligations.SmulvResult := by
  intro s pd ps bs e hps
  obtain ⟨hok, hread⟩ := writeP_finish_ok s pd (.extended (smulVar (s.readB bs).toNat e))
  refine ⟨_, _, unaryP_written (smulVar? (s.readB bs).toNat) hps rfl, hok, hread, fun he => ?_, fun h0 => ?_⟩
  · exact ⟨smulVar_valid he _, smulVar_aff he (s.readB bs).isLt⟩
  · rw [h0]
    exact smulVar_zero e

end Sys2Proof.Proofs

/-! PROOFS of the statements of the system commands (spec/43_system.md): the words of each command and of no command
(R75, R190), and the state after `NOP`, `WIPE`, `CSET` and `BLDL` (R191 to R194). -/

namespace Sys2Proof.Proofs

open Sys2Proof.Machine Sys2Proof.Laws

/-! ## The other words of an opcode (R74, R75, R190) -/

/-- A word is ILLEGAL unless it is the encoding of the one command its fields can build. -/
theorem runCommand_illegal_of_ne_encode {w : Word} {i : Instr} (hbuild : (Fields.ofWord w).build = some i)
    (hne : w ≠ encode i) (s : State) : ∃ t, runCommand w s = .next t ∧ t.err = .illegal := by
  cases hw : decode w with
  | error r => exact ⟨_, runCommand_of_error hw s, rfl⟩
  | ok j =>
    have hji : j = i := Option.some.inj (by rw [← build_fields j, ← decode_eq_ok_iff.1 hw, hbuild])
    exact absurd (encodeDecode w i (hji ▸ hw)).symm hne

theorem build_of_op_nop {x : Fields} (h : x.op = 0x00) : x.build = some .nop := by cases x; cases h; rfl

theorem build_of_op_wipe {x : Fields} (h : x.op = 0x01) : x.build = some .wipe := by cases x; cases h; rfl

theorem build_of_op_cset {x : Fields} (h : x.op = 0x02) : x.build = some (.cset (x.imm.getLsbD 0)) := by
  cases x; cases h; rfl

theorem build_of_op_bldl {x : Fields} (h : x.op = 0x03) : x.build = some (.bldl (bIndex x.a)) := by
  cases x; cases h; rfl

/-! ## `NOP`, `WIPE` and `CSET` (R191 to R193) -/

theorem finish_ok_eq (s : State) : s.finish .ok = { s with err := .ok } := by
  rw [State.finish, ResultCode.setsSticky, Bool.or_false]

/-- Settles O23: the next state is that of a command that writes nothing. -/
theorem nopResult : Obligations.NopResult :=
  ⟨rfl, fun s => congrArg _ (finish_ok_eq s),
    fun _ s hop hne => runCommand_illegal_of_ne_encode (build_of_op_nop hop) hne s⟩

/-- The state after `WIPE` is the reset state of R37 but for STICKY and the host's side of the bus. -/
theorem wipe_finish_ok (s : State) : s.wipe.finish .ok =
    { State.reset with sticky := s.sticky, pending := s.pending, readData := s.readData } :=
  finish_ok_eq s.wipe

/-- Settles O24: the wiped state has no memory cell left, so every buffer byte reads as unlisted. -/
theorem wipeResult : Obligations.WipeResult :=
  ⟨rfl, fun s => ⟨_, done_eq s.wipe, wipe_readF s, wipe_readP s, wipe_readB s, fun _ => rfl, rfl, endsOk_finish rfl,
      wipe_finish_ok s⟩,
    fun _ s hop hne => runCommand_illegal_of_ne_encode (build_of_op_wipe hop) hne s⟩

/-- Settles O25: the one bit that the fields of the opcode leave free has two values, and each has its word. -/
theorem csetResult : Obligations.CsetResult := by
  refine ⟨rfl, rfl, fun b s => congrArg _ (writeCf_finish_ok s b), fun w s hop hzero hone => ?_⟩
  have hne : ∀ b, w ≠ encode (.cset b) := Bool.forall_bool.2 ⟨hzero, hone⟩
  exact runCommand_illegal_of_ne_encode (build_of_op_cset hop) (hne _) s

/-! ## `BLDL` (R9, R194) -/

theorem toNat_groupOrderBytes : groupOrderBytes.toNat = groupOrder := by decide

/-- The bytes of `le32(L)` as R194 lists them. -/
theorem groupOrder_bytes : ∀ j < 32, BitVec.ofNat 8 (groupOrder / 256 ^ j) =
    ([0xed, 0xd3, 0xf5, 0x5c, 0x1a, 0x63, 0x12, 0x58, 0xd6, 0x9c, 0xf7, 0xa2, 0xde, 0xf9, 0xde, 0x14,
      0, 0, 0, 0, 0, 0, 0, 0, 0, 0, 0, 0, 0, 0, 0, 0x10] : List Byte).getD j 0 := by
  decide

/-- Byte `j` of a buffer after the buffer is written. -/
theorem writeB_read_byte {s : State} (h : s.mem.wf = true) (k : BReg) (v : Bytes32) {j : ℕ} (hj : j < 32) :
    (s.writeB k v).mem.read (bufferOffset k + j) = BitVec.ofNat 8 (v.toNat / 256 ^ j) := by
  rw [writeB_read h, if_pos ⟨Nat.le_add_right _ _, Nat.add_lt_add_left hj _⟩, Nat.add_sub_cancel_left]

/-- Settles O26: the buffer reads back as `le32(L)`, as a number and byte by byte. -/
theorem bldlResult : Obligations.BldlResult := by
  refine ⟨rfl, rfl, rfl, rfl, fun w s hop hne => ?_, fun bd s hmem => ?_⟩
  · exact runCommand_illegal_of_ne_encode (build_of_op_bldl hop) (hne _) s
  · have hread : (((s.writeB bd groupOrderBytes).finish .ok).readB bd).toNat = groupOrder := by
      rw [finish_readB, readB_writeB hmem.1, if_pos rfl, toNat_groupOrderBytes]
    refine ⟨_, done_eq _, endsOk_finish (writeB_sticky ..), hread.trans (by decide), hread, fun j hj => ?_⟩
    rw [finish_mem, writeB_read_byte hmem.1 _ _ hj, toNat_groupOrderBytes]
    exact groupOrder_bytes j hj

end Sys2Proof.Proofs

/-! PROOFS of the statements of the host's sequences (spec/44_host_sequences.md): clamping (R200, R201) and the
small-order check (R202). -/

namespace Sys2Proof.Proofs

open Sys2Proof.Machine Sys2Proof.Laws

/-! ## Clamping (R200, R201) -/

section Clamp

variable (m : ClampMasks) (h : Bytes32) {k : ℕ}

/-- A clamped string is three strings in a row: byte 0, bytes 1 to 30, byte 31. -/
theorem getLsbD_clamp_append : (clamp m h).getLsbD k =
    if k < 8 then (h.extractLsb' 0 8 &&& m.and0).getLsbD k
    else if k - 8 < 240 then (h.extractLsb' 8 240).getLsbD (k - 8)
    else ((h.extractLsb' 248 8 &&& m.and31) ||| m.or31).getLsbD (k - 8 - 240) :=
  BitVec.getLsbD_append.trans (if_congr Iff.rfl rfl BitVec.getLsbD_append)

/-- Byte 0 of a clamped string. -/
theorem getLsbD_clamp_byte0 (hk : k < 8) : (clamp m h).getLsbD k = (h.getLsbD k && m.and0.getLsbD k) := by
  rw [getLsbD_clamp_append, if_pos hk, BitVec.getLsbD_and, BitVec.getLsbD_extractLsb', decide_eq_true hk, Nat.zero_add,
    Bool.true_and]

/-- Bytes 1 to 30 are kept. -/
theorem getLsbD_clamp_middle (hlo : 8 ≤ k) (hhi : k < 248) : (clamp m h).getLsbD k = h.getLsbD k := by
  have hk : k - 8 < 240 := by omega
  rw [getLsbD_clamp_append, if_neg hlo.not_gt, if_pos hk, BitVec.getLsbD_extractLsb', decide_eq_true hk,
    Nat.add_sub_cancel' hlo, Bool.true_and]

/-- Byte 31 of a clamped string: the OR comes last. -/
theorem getLsbD_clamp_byte31 (hlo : 248 ≤ k) (hhi : k < 256) :
    (clamp m h).getLsbD k = (h.getLsbD k && m.and31.getLsbD (k - 248) || m.or31.getLsbD (k - 248)) := by
  have hk : k - 248 < 8 := by omega
  rw [getLsbD_clamp_append, if_neg (by omega), if_neg (by omega), Nat.sub_sub, BitVec.getLsbD_or, BitVec.getLsbD_and,
    BitVec.getLsbD_extractLsb', decide_eq_true hk, Nat.add_sub_cancel' hlo, Bool.true_and]

end Clamp

/-- The masks that, as R200 infers, define the same function as the named constants. -/
def clampInferred : ClampMasks := ⟨0xF8, 0x7F, 0x40⟩

section Masks

variable {m : ClampMasks} (hm : m = clampEd25519 ∨ m = clampInferred)
include hm

/-- The AND mask of byte 0 clears the low three bits. -/
theorem getLsbD_and0 : ∀ i < 8, m.and0.getLsbD i = decide (3 ≤ i) := by
  obtain rfl | rfl := hm <;> decide

/-- Either AND mask of byte 31 keeps the bits below bit 6 and clears bit 7; the OR mask sets bit 6 whatever the AND
left there. -/
theorem getLsbD_and31_or31 (c : Bool) :
    ∀ i < 8, (c && m.and31.getLsbD i || m.or31.getLsbD i) = (c && decide (i < 6) || decide (i = 6)) := by
  obtain rfl | rfl := hm <;> revert c <;> decide

/-- R200 bit by bit: bits 3 to 253 are kept, bit 254 is set and the others are clear. -/
theorem getLsbD_clamp (h : Bytes32) (k : ℕ) :
    (clamp m h).getLsbD k = (h.getLsbD k && decide (3 ≤ k ∧ k < 254) || decide (k = 254)) := by
  obtain hk | ⟨hlo, hhi⟩ | ⟨hlo, hhi⟩ | hk : k < 8 ∨ (8 ≤ k ∧ k < 248) ∨ (248 ≤ k ∧ k < 256) ∨ 256 ≤ k := by omega
  · rw [getLsbD_clamp_byte0 m h hk, getLsbD_and0 hm k hk, decide_eq_false (show k ≠ 254 by omega), Bool.or_false,
      decide_eq_decide.2 (show 3 ≤ k ↔ 3 ≤ k ∧ k < 254 by omega)]
  · rw [getLsbD_clamp_middle m h hlo hhi, decide_eq_false (show k ≠ 254 by omega), Bool.or_false,
      decide_eq_true (show 3 ≤ k ∧ k < 254 by omega), Bool.and_true]
  · rw [getLsbD_clamp_byte31 m h hlo hhi, getLsbD_and31_or31 hm _ (k - 248) (by omega),
      decide_eq_decide.2 (show k - 248 < 6 ↔ 3 ≤ k ∧ k < 254 by omega),
      decide_eq_decide.2 (show k - 248 = 6 ↔ k = 254 by omega)]
  · rw [BitVec.getLsbD_of_ge _ _ hk, BitVec.getLsbD_of_ge _ _ hk, decide_eq_false (show k ≠ 254 by omega),
      Bool.false_and, Bool.or_false]

theorem getLsbD_clamp_kept (h : Bytes32) {k : ℕ} (hlo : 3 ≤ k) (hhi : k < 254) :
    (clamp m h).getLsbD k = h.getLsbD k := by
  rw [getLsbD_clamp hm, decide_eq_true ⟨hlo, hhi⟩, decide_eq_false hhi.ne, Bool.and_true, Bool.or_false]

theorem getLsbD_clamp_set (h : Bytes32) : (clamp m h).getLsbD 254 = true := by
  rw [getLsbD_clamp hm, decide_eq_true rfl, Bool.or_true]

theorem getLsbD_clamp_cleared (h : Bytes32) {k : ℕ} (hk : k < 3 ∨ 254 < k) : (clamp m h).getLsbD k = false := by
  rw [getLsbD_clamp hm, decide_eq_false (show ¬(3 ≤ k ∧ k < 254) by omega), decide_eq_false (show k ≠ 254 by omega),
    Bool.and_false, Bool.or_false]

end Masks

/-- Settles O59: a multiple of 8 has bits 0 to 2 clear, and bits 254 and 255 decide the two bounds. -/
theorem clampResult : Obligations.ClampResult := by
  intro m h hm
  have hnamed : m = clampEd25519 ∨ m = clampInferred := .inl (hm.elim id id)
  refine ⟨?_, ?_, ?_, fun k hlo hhi => getLsbD_clamp_kept hnamed h hlo (Nat.lt_succ_of_le hhi), ?_⟩
  · refine Nat.eq_of_testBit_eq (x := _ % 2 ^ 3) fun i => ?_
    rw [Nat.testBit_mod_two_pow, BitVec.testBit_toNat, Nat.zero_testBit]
    by_cases hi : i < 3
    · rw [getLsbD_clamp_cleared hnamed h (.inl hi), Bool.and_false]
    · rw [decide_eq_false hi, Bool.false_and]
  · exact Nat.ge_two_pow_of_testBit ((BitVec.testBit_toNat _).trans (getLsbD_clamp_set hnamed h))
  · exact Nat.lt_pow_two_of_testBit _ fun i hi =>
      (BitVec.testBit_toNat _).trans (getLsbD_clamp_cleared hnamed h (.inr hi))
  · exact BitVec.eq_of_getLsbD_eq fun i _ =>
      (getLsbD_clamp hnamed h i).trans (getLsbD_clamp (m := clampInferred) (.inr rfl) h i).symm

/-! ## The small-order check (R202) -/

/-- The point T of order 8 with the smaller of the two y of order 8 that R202 lists, and an even x. -/
def torsionPoint : Affine :=
  ⟨0x1fd5b9a006394a28e933993238de4abb5c193c7013e5e238dea14646c545d14a,
    0x05fc536d880238b13933c6d305acdfd5f098eff289f4c345b027b2c28f95e826⟩

theorem onCurve_torsionPoint : torsionPoint.OnCurve := by decide +kernel

theorem smul_eight_torsionPoint : Affine.smul 8 torsionPoint = Affine.identity := by decide +kernel

/-- Each of the seven integers of R202 is, modulo p, the y of one of [0]T, ..., [4]T. -/
theorem exists_multiple_of_mem_smallOrderStrings :
    ∀ n ∈ smallOrderStrings, ∃ k < 5, (Affine.smul k torsionPoint).y = Fp.ofNat n := by decide +kernel

theorem smul_neg (a : Affine) : ∀ n, Affine.smul n a.neg = (Affine.smul n a).neg
  | 0 => neg_identity.symm
  | n + 1 => by rw [smul_succ, smul_neg a n, smul_succ, neg_add_affine]

/-- Every multiple of T has order dividing 8. -/
theorem smul_eight_multiple (k : ℕ) :
    Affine.smul 8 (Affine.smul k torsionPoint) = Affine.identity := by
  rw [← smul_mul onCurve_torsionPoint, Nat.mul_comm, smul_mul onCurve_torsionPoint, smul_eight_torsionPoint,
    smul_identity]

/-- A string with the y of a point of the curve decodes to the point or its negative, by the sign it asks for. -/
theorem decodePoint?_of_onCurve {b : Bytes32} {a : Affine} (h : a.OnCurve) (hy : a.y = Fp.ofBytes b) :
    decodePoint? b = some a ∨ decodePoint? b = some a.neg := by
  by_cases hs : a.x ≠ 0 → a.x.isNeg = b.getLsbD 255
  · exact .inl (decodePoint?_eq_some_iff.2 ⟨hy, root_of_onCurve h, hs⟩)
  · obtain ⟨hx, hne⟩ := Classical.not_imp.1 hs
    refine .inr (decodePoint?_eq_some_iff.2 ⟨hy, root_of_onCurve (onCurve_neg h), fun _ => ?_⟩)
    exact (isNeg_neg hx).trans (Bool.eq_not.2 (Ne.symm hne)).symm

/-- Settles O60: the y of the string is that of a multiple of the point of order 8, and that multiple or its negative is
what the string decodes to. -/
theorem smallOrderStrings : Obligations.SmallOrderStrings := by
  intro b hb
  obtain ⟨k, -, hk⟩ := exists_multiple_of_mem_smallOrderStrings _ (List.contains_iff_mem.1 hb)
  obtain hd | hd := decodePoint?_of_onCurve (onCurve_smul onCurve_torsionPoint k) hk
  · exact ⟨_, hd, smul_eight_multiple k⟩
  · exact ⟨_, hd, by rw [smul_neg, smul_eight_multiple, neg_identity]⟩

end Sys2Proof.Proofs

/-! PROOFS of the statements of the result codes (spec/60_exceptions.md): what a command leaves by its code (R221), what
sets STICKY (R223), which commands can end with which code (R220), and that the code is that of the first cause in the
order of R222, which leaves OK and DECODE alone for accepted operands (R230). -/

namespace Sys2Proof.Proofs

open Sys2Proof.Machine Sys2Proof.Laws

/-! ## Which command can end with which code (R220) -/

theorem uninit_mem_resultCodes {i : Instr} (h : .uninit ∈ resultCodes i) :
    i.fieldSources ≠ [] ∨ i.pointSources ≠ [] := by
  cases i <;> simp [resultCodes, Instr.fieldSources, Instr.pointSources] at h ⊢

theorem tag_mem_resultCodes {i : Instr} (h : .tag ∈ resultCodes i) :
    (∃ pd p q, i = .padd pd p q) ∨ (∃ pd p q, i = .psub pd p q) ∨ (∃ pd p q, i = .padde pd p q) ∨
      (∃ pd p, i = .pdbl pd p) ∨ (∃ pd p v, i = .pcvt pd p v) ∨ (∃ fd p k, i = .pgetc fd p k) ∨
      (∃ bd p, i = .penc bd p) ∨ (∃ pd p bs, i = .smulv pd p bs) := by
  cases i <;> simp [resultCodes] at h ⊢

theorem range_mem_resultCodes {i : Instr} (h : .range ∈ resultCodes i) : ∃ pd bs, i = .smulb pd bs := by
  cases i <;> simp [resultCodes] at h ⊢

theorem decode_mem_resultCodes {i : Instr} (h : .decode ∈ resultCodes i) :
    ∃ pd bs, i = .pdec pd bs ∨ i = .pdecnv pd bs := by
  cases i <;> simp [resultCodes] at h ⊢

/-- Settles O19: a command ends with one of its codes, and the table of R220 says which commands have which. -/
theorem resultCodeCauses : Obligations.ResultCodeCauses := by
  intro i s t h
  have hcode := exec_err h
  exact ⟨exec_err_ne_illegal h, fun hc => uninit_mem_resultCodes (hc ▸ hcode),
    fun hc => tag_mem_resultCodes (hc ▸ hcode), fun hc => range_mem_resultCodes (hc ▸ hcode), fun hc => decode_mem_resultCodes (hc ▸ hcode)⟩

/-! ## What a command leaves, by its code (R221, R223) -/

section CodeEffects

variable {i : Instr} {w : Word} {s t : State} {c : ResultCode}

theorem setsSticky_iff : c.setsSticky = true ↔ c = .illegal ∨ c = .uninit ∨ c = .tag ∨ c = .range := by
  cases c <;> decide

theorem finish_of_setsSticky (h : c.setsSticky = true) (s : State) :
    s.finish c = { s with err := c, sticky := true } := by
  rw [State.finish, h, Bool.or_true]

/-- STICKY after a command is a matter of its code. -/
theorem sticky_of_effect (h : Effect i s t) : t.sticky = (s.sticky || t.err.setsSticky) := by
  cases h with
  | ended c => rfl
  | fieldWritten fd v => rfl
  | pointWritten pd q hq => rfl
  | pointEmptied pd => rfl
  | bufferWritten bd v => rw [finish_sticky, writeB_sticky, finish_err]
  | flagWritten b hi => rfl
  | wiped hi => rfl

/-- Codes 1 to 4 are those of the commands that write nothing else. -/
theorem eq_finish_of_effect (h : Effect i s t) (hc : t.err.setsSticky = true) : t = s.finish t.err := by
  cases h with
  | ended c => rfl
  | fieldWritten fd v => cases hc
  | pointWritten pd q hq => cases hc
  | pointEmptied pd => cases hc
  | bufferWritten bd v => cases hc
  | flagWritten b hi => cases hc
  | wiped hi => cases hc

theorem runCommand_sticky (h : runCommand w s = .next t) : t.sticky = (s.sticky || t.err.setsSticky) := by
  obtain ⟨i, -, hrun⟩ | ⟨r, -, hrun⟩ := runCommand_cases (s := s) w
  · exact sticky_of_effect (exec_effect (hrun.symm.trans h))
  · cases hrun.symm.trans h
    rfl

theorem runCommand_eq_finish (h : runCommand w s = .next t) (hc : t.err.setsSticky = true) : t = s.finish t.err := by
  obtain ⟨i, -, hrun⟩ | ⟨r, -, hrun⟩ := runCommand_cases (s := s) w
  · exact eq_finish_of_effect (exec_effect (hrun.symm.trans h)) hc
  · cases hrun.symm.trans h
    rfl

/-- A form that decodes a buffer ends with DECODE only when it empties its destination. -/
theorem decodeP_eq_emptyP {pd : PReg} {bs : BReg} {op : Bytes32 → Option Point} (h : decodeP pd bs op s = .next t)
    (hc : t.err = .decode) : t = (s.emptyP pd).finish .decode := by
  obtain ⟨-, ht⟩ | ⟨r, -, rfl⟩ := of_next (decodeP_cases op) h
  · exact ht
  · cases hc

theorem runCommand_decode (h : runCommand w s = .next t) (hc : t.err = .decode) : ∃ pd bs,
    (decode w = .ok (.pdec pd bs) ∨ decode w = .ok (.pdecnv pd bs)) ∧ t = (s.emptyP pd).finish .decode := by
  obtain ⟨i, hw, hrun⟩ | ⟨r, -, hrun⟩ := runCommand_cases (s := s) w
  · have hexec := hrun.symm.trans h
    obtain ⟨pd, bs, rfl | rfl⟩ := decode_mem_resultCodes (hc ▸ exec_err hexec) <;>
      simp only [exec, execPdec, execPdecnv] at hexec
    · exact ⟨pd, bs, .inl hw, decodeP_eq_emptyP hexec hc⟩
    · exact ⟨pd, bs, .inr hw, decodeP_eq_emptyP hexec hc⟩
  · cases hrun.symm.trans h
    cases hc

end CodeEffects

/-! ## ERR does not influence the next command (R221) -/

section ErrOverwritten

variable (s : State) (e : ResultCode)

theorem decodeP_err_overwritten (pd : PReg) (bs : BReg) (op : Bytes32 → Option Point) :
    decodeP pd bs op { s with err := e } = decodeP pd bs op s := rfl

theorem scalarP_err_overwritten (pd : PReg) (bs : BReg) (op : Nat → Option Point) :
    scalarP pd bs op { s with err := e } = scalarP pd bs op s := rfl

/-- No command reads ERR, and the end of each overwrites it: both sides unfold to one state. Where the operation is a
decoding or a multiplication of the base point, the operand form is unfolded and the operation is not. -/
theorem exec_err_overwritten (i : Instr) : exec i { s with err := e } = exec i s := by
  cases i with
  | pdec pd bs => simp only [exec, execPdec]; exact decodeP_err_overwritten ..
  | pdecnv pd bs => simp only [exec, execPdecnv]; exact decodeP_err_overwritten ..
  | smulb pd bs => exact scalarP_err_overwritten s e pd bs smulBase?
  | _ => rfl

theorem runCommand_err_overwritten (w : Word) : runCommand w { s with err := e } = runCommand w s := by
  cases hw : decode w with
  | ok i => rw [runCommand_of_ok hw, runCommand_of_ok hw, exec_err_overwritten]
  | error r => rw [runCommand_of_error hw, runCommand_of_error hw]

end ErrOverwritten

/-- Settles O17: codes 1 to 4 come with no other write, DECODE with the one that empties the destination, and the end of
a command overwrites ERR. -/
theorem resultCodeEffect : Obligations.ResultCodeEffect := by
  refine ⟨fun w s t h => ⟨fun hok => ?_, fun hc => ?_, fun hdec => ?_⟩,
    fun w s t e h => (runCommand_err_overwritten s e w).trans h⟩
  · rw [runCommand_sticky h, hok]
    exact Bool.or_false _
  · have hset := setsSticky_iff.2 hc
    exact (runCommand_eq_finish h hset).trans (finish_of_setsSticky hset s)
  · obtain ⟨pd, bs, hw, rfl⟩ := runCommand_decode h hdec
    obtain ⟨-, hpoints, -, hcf, hsticky, hbus⟩ := registerFrame_emptyP s pd .decode
    exact ⟨pd, bs, hw, readP_emptyP_self s pd, hpoints, rfl, rfl, hcf, hsticky.trans (Bool.or_false _), hbus⟩

/-! ## What sets and clears STICKY (R223) -/

/-- A step that is neither a command nor a reset leaves STICKY. -/
theorem step_sticky {s t : State} (h : step s = .next t)
    (hcmd : ∀ w rest, s.pending ≠ .write Config.cmdOffset 4 w :: rest) (hreset : ∀ rest, s.pending ≠ .reset :: rest) :
    t.sticky = s.sticky := by
  obtain ⟨-, rfl⟩ | ⟨a, rest, hp, hcase⟩ := step_next h
  · rfl
  · obtain ⟨addr, n, -, -, -, -, rfl⟩ | ⟨addr, n, v, rfl, -, -, -, hw⟩ | ⟨rfl, -⟩ := hcase
    · rfl
    · obtain ⟨-, hstored⟩ | ⟨rfl, rfl, -⟩ | ⟨-, -, hignored⟩ :=
        memWrite_cases (s := { s with pending := rest }) addr n v
      · cases hstored.symm.trans hw
        rfl
      · exact absurd hp (hcmd v rest)
      · cases hignored.symm.trans hw
        rfl
    · exact absurd hp (hreset rest)

/-- Settles O18: after a command by its code, after any other step but a reset not at all. -/
theorem stickyRule : Obligations.StickyRule := by
  refine ⟨fun w s t h => ?_, fun s t => step_sticky, fun s rest hp => ⟨_, step_of_pending hp, rfl⟩⟩
  rw [runCommand_sticky h, Bool.or_eq_true, setsSticky_iff]

/-! ## The sources of a command and their variants (R130 (f), R138, R139, R221) -/

section Sources

variable {i : Instr} {s : State} {fd : FReg} {pd ps ps1 ps2 : PReg} {bd bs : BReg} {v : Variant} {k : Fin 4}
  {q q1 q2 : Point}

theorem sourcesWritten_of_field {f : FReg} (hf : i.fieldSources = [f]) (hp : i.pointSources = []) :
    s.SourcesWritten i ↔ s.readF f ≠ none := by
  simp [State.SourcesWritten, hf, hp]

theorem sourcesWritten_of_fields {f1 f2 : FReg} (hf : i.fieldSources = [f1, f2]) (hp : i.pointSources = []) :
    s.SourcesWritten i ↔ s.readF f1 ≠ none ∧ s.readF f2 ≠ none := by
  simp [State.SourcesWritten, hf, hp]

theorem sourcesWritten_of_point {p : PReg} (hf : i.fieldSources = []) (hp : i.pointSources = [p]) :
    s.SourcesWritten i ↔ s.readP p ≠ none := by
  simp [State.SourcesWritten, hf, hp]

theorem sourcesWritten_of_points {p1 p2 : PReg} (hf : i.fieldSources = []) (hp : i.pointSources = [p1, p2]) :
    s.SourcesWritten i ↔ s.readP p1 ≠ none ∧ s.readP p2 ≠ none := by
  simp [State.SourcesWritten, hf, hp]

theorem sourcesWritten_of_none (hf : i.fieldSources = []) (hp : i.pointSources = []) : s.SourcesWritten i := by
  simp [State.SourcesWritten, hf, hp]

theorem holds_iff (hq : s.readP ps = some q) : s.Holds ps v ↔ q.variant = v :=
  ⟨variant_of_holds hq, fun hv => ⟨q, hq, hv⟩⟩

/-! Each command refuses exactly the variants its operation has no result for: the four variants are gone through, for
two sources their sixteen pairs. -/

theorem tagsAccepted_padd_iff (h1 : s.readP ps1 = some q1) (h2 : s.readP ps2 = some q2) :
    s.TagsAccepted (.padd pd ps1 ps2) ↔ q1.add? q2 ≠ none := by
  rw [State.TagsAccepted, holds_iff h1, holds_iff h2]
  cases q1 <;> cases q2 <;> simp [Point.add?, Point.variant]

theorem tagsAccepted_psub_iff (h1 : s.readP ps1 = some q1) (h2 : s.readP ps2 = some q2) :
    s.TagsAccepted (.psub pd ps1 ps2) ↔ q1.sub? q2 ≠ none := by
  rw [State.TagsAccepted, holds_iff h1, holds_iff h2]
  cases q1 <;> cases q2 <;> simp [Point.sub?, Point.variant]

theorem tagsAccepted_padde_iff (h1 : s.readP ps1 = some q1) (h2 : s.readP ps2 = some q2) :
    s.TagsAccepted (.padde pd ps1 ps2) ↔ q1.addExtended? q2 ≠ none := by
  rw [State.TagsAccepted, holds_iff h1, holds_iff h2]
  cases q1 <;> cases q2 <;> simp [Point.addExtended?, Point.variant]

theorem tagsAccepted_pdbl_iff (hq : s.readP ps = some q) : s.TagsAccepted (.pdbl pd ps) ↔ q.double? ≠ none := by
  rw [State.TagsAccepted, holds_iff hq, holds_iff hq]
  cases q <;> simp [Point.double?, Point.variant]

theorem tagsAccepted_pcvt_iff (hq : s.readP ps = some q) :
    s.TagsAccepted (.pcvt pd ps v) ↔ q.convert? v ≠ none := by
  rw [State.TagsAccepted, holds_iff hq, holds_iff hq]
  cases q <;> cases v <;> simp [Point.convert?, Point.variant]

theorem tagsAccepted_pgetc_iff (hq : s.readP ps = some q) :
    s.TagsAccepted (.pgetc fd ps k) ↔ q.component? k ≠ none := by
  rw [State.TagsAccepted, holds_iff hq]
  cases q with
  | extended e => simp [Point.component?, Point.variant]
  | projective p => revert k; simp [Point.component?, Point.variant, Fin.forall_fin_succ]
  | completed c => simp [Point.component?, Point.variant]
  | cached k => simp [Point.component?, Point.variant]

theorem tagsAccepted_penc_iff (hq : s.readP ps = some q) : s.TagsAccepted (.penc bd ps) ↔ q.encode? ≠ none := by
  rw [State.TagsAccepted, holds_iff hq, holds_iff hq]
  cases q <;> simp [Point.encode?, Point.variant]

theorem tagsAccepted_smulv_iff {n : Nat} (hq : s.readP ps = some q) :
    s.TagsAccepted (.smulv pd ps bs) ↔ smulVar? n q ≠ none := by
  rw [State.TagsAccepted, holds_iff hq]
  cases q <;> simp [smulVar?, Point.variant]

end Sources

/-! ## The first cause (R222) -/

/-- The code of a command whose sources are written and accepted: RANGE and DECODE are read off a buffer, and no other
command has a cause left. -/
def dataCode (s : State) : Instr → ResultCode
  | .smulb _ bs => if (s.readB bs).getLsbD 255 = true then .range else .ok
  | .pdec _ bs | .pdecnv _ bs => if decodePoint? (s.readB bs) = none then .decode else .ok
  | _ => .ok

theorem dataCode_smulb (s : State) (pd : PReg) (bs : BReg) :
    dataCode s (.smulb pd bs) = if (s.readB bs).getLsbD 255 = true then .range else .ok := by
  simp only [dataCode]

theorem dataCode_pdec (s : State) (pd : PReg) (bs : BReg) :
    dataCode s (.pdec pd bs) = if decodePoint? (s.readB bs) = none then .decode else .ok := by
  simp only [dataCode]

theorem dataCode_pdecnv (s : State) (pd : PReg) (bs : BReg) :
    dataCode s (.pdecnv pd bs) = if decodePoint? (s.readB bs) = none then .decode else .ok := by
  simp only [dataCode]

/-- The code of the first cause a decoded command has on `s`, in the order of R222. -/
inductive FirstCause (i : Instr) (s : State) : ResultCode → Prop
  | uninit (hs : ¬ s.SourcesWritten i) : FirstCause i s .uninit
  | tag (hs : s.SourcesWritten i) (ht : ¬ s.TagsAccepted i) : FirstCause i s .tag
  | data (hs : s.SourcesWritten i) (ht : s.TagsAccepted i) : FirstCause i s (dataCode s i)

section FirstCauses

variable {i : Instr} {s t : State} {c : ResultCode} {fd : FReg} {pd ps ps1 ps2 : PReg} {bd bs : BReg}

theorem FirstCause.eq_uninit (h : FirstCause i s c) (hs : ¬ s.SourcesWritten i) : c = .uninit := by
  cases h with
  | uninit _ => rfl
  | tag hs' _ => exact absurd hs' hs
  | data hs' _ => exact absurd hs' hs

theorem FirstCause.eq_tag (h : FirstCause i s c) (hs : s.SourcesWritten i) (ht : ¬ s.TagsAccepted i) : c = .tag := by
  cases h with
  | uninit hs' => exact absurd hs hs'
  | tag _ _ => rfl
  | data _ ht' => exact absurd ht' ht

theorem FirstCause.eq_dataCode (h : FirstCause i s c) (hs : s.SourcesWritten i) (ht : s.TagsAccepted i) :
    c = dataCode s i := by
  cases h with
  | uninit hs' => exact absurd hs hs'
  | tag _ ht' => exact absurd ht ht'
  | data _ _ => rfl

theorem firstCause_of_dataCode (hs : s.SourcesWritten i) (ht : s.TagsAccepted i) (hd : dataCode s i = c) :
    FirstCause i s c :=
  hd ▸ .data hs ht

/-! ### Commands without a register source -/

theorem done_firstCause {u : State} (hf : i.fieldSources = []) (hp : i.pointSources = []) (ht : s.TagsAccepted i)
    (hd : dataCode s i = .ok) (h : u.done = .next t) : FirstCause i s t.err := by
  cases h
  exact firstCause_of_dataCode (sourcesWritten_of_none hf hp) ht hd

/-- `PDEC` and `PDECNV`: what is made of the decoded point does not matter. -/
theorem decodeP_firstCause {f : Affine → Point} (hf : i.fieldSources = []) (hp : i.pointSources = [])
    (ht : s.TagsAccepted i) (hd : dataCode s i = if decodePoint? (s.readB bs) = none then .decode else .ok)
    (h : decodeP pd bs (fun b => (decodePoint? b).map f) s = .next t) : FirstCause i s t.err := by
  refine firstCause_of_dataCode (sourcesWritten_of_none hf hp) ht (hd.trans ?_)
  obtain ⟨hr, rfl⟩ | ⟨r, hr, rfl⟩ := of_next (decodeP_cases _) h
  · exact if_pos (Option.map_eq_none_iff.1 hr)
  · obtain ⟨a, ha, -⟩ := Option.map_eq_some_iff.1 hr
    exact if_neg (by simp [ha])

theorem smulb_firstCause (h : exec (.smulb pd bs) s = .next t) : FirstCause (.smulb pd bs) s t.err := by
  refine firstCause_of_dataCode (sourcesWritten_of_none rfl rfl) trivial ?_
  rw [dataCode_smulb]
  split_ifs with hbit <;> rw [getLsbD_last, decide_eq_true_iff] at hbit
  · cases (exec_smulb_range hbit pd).symm.trans h
    rfl
  · cases (exec_smulb (not_le.1 hbit) pd).symm.trans h
    rfl

/-! ### Operand forms with field sources, which have no variant to refuse

`f` is the state that the form makes of the sources. -/

section FieldSources

variable (hp : i.pointSources = []) (ht : s.TagsAccepted i) (hd : dataCode s i = .ok)

include hp ht hd

theorem firstCause_of_field {fs : FReg} {f : Fp → State} (hf : i.fieldSources = [fs])
    (h : (s.readF fs = none ∧ t = s.finish .uninit) ∨ ∃ a, s.readF fs = some a ∧ t = (f a).finish .ok) :
    FirstCause i s t.err := by
  have hs := sourcesWritten_of_field (s := s) hf hp
  obtain ⟨ha, rfl⟩ | ⟨a, ha, rfl⟩ := h
  · exact .uninit (by simp [hs, ha])
  · exact firstCause_of_dataCode (by simp [hs, ha]) ht hd

theorem binaryF_firstCause {fs1 fs2 : FReg} {op : Fp → Fp → Fp} (hf : i.fieldSources = [fs1, fs2])
    (h : binaryF fd fs1 fs2 op s = .next t) : FirstCause i s t.err := by
  have hs := sourcesWritten_of_fields (s := s) hf hp
  obtain ⟨ha | ha, rfl⟩ | ⟨a, b, ha, hb, rfl⟩ := of_next (binaryF_cases op) h
  · exact .uninit (by simp [hs, ha])
  · exact .uninit (by simp [hs, ha])
  · exact firstCause_of_dataCode (by simp [hs, ha, hb]) ht hd

theorem unaryF_firstCause {fs : FReg} {op : Fp → Fp} (hf : i.fieldSources = [fs])
    (h : unaryF fd fs op s = .next t) : FirstCause i s t.err :=
  firstCause_of_field hp ht hd hf (of_next (unaryF_cases op) h)

end FieldSources

/-! ### Operand forms with point sources: the variants refused are those without a result -/

section PointSources

variable (hf : i.fieldSources = []) (hd : dataCode s i = .ok)

include hf hd

theorem firstCause_of_point {β : Type} {op : Point → Option β} {f : β → State} (hp : i.pointSources = [ps])
    (ht : ∀ {q}, s.readP ps = some q → (s.TagsAccepted i ↔ op q ≠ none))
    (h : (s.readP ps = none ∧ t = s.finish .uninit) ∨ (∃ q, s.readP ps = some q ∧ op q = none ∧ t = s.finish .tag) ∨
      ∃ q r, s.readP ps = some q ∧ op q = some r ∧ t = (f r).finish .ok) : FirstCause i s t.err := by
  have hs := sourcesWritten_of_point (s := s) hf hp
  obtain ⟨hq, rfl⟩ | ⟨q, hq, hr, rfl⟩ | ⟨q, r, hq, hr, rfl⟩ := h
  · exact .uninit (by simp [hs, hq])
  · exact .tag (by simp [hs, hq]) (by simp [ht hq, hr])
  · exact firstCause_of_dataCode (by simp [hs, hq]) (by simp [ht hq, hr]) hd

theorem binaryP_firstCause {op : Point → Point → Option Point} (hp : i.pointSources = [ps1, ps2])
    (ht : ∀ {q1 q2}, s.readP ps1 = some q1 → s.readP ps2 = some q2 → (s.TagsAccepted i ↔ op q1 q2 ≠ none))
    (h : binaryP pd ps1 ps2 op s = .next t) : FirstCause i s t.err := by
  have hs := sourcesWritten_of_points (s := s) hf hp
  obtain ⟨hq | hq, rfl⟩ | ⟨q1, q2, h1, h2, hr, rfl⟩ | ⟨q1, q2, r, h1, h2, hr, rfl⟩ := of_next (binaryP_cases op) h
  · exact .uninit (by simp [hs, hq])
  · exact .uninit (by simp [hs, hq])
  · exact .tag (by simp [hs, h1, h2]) (by simp [ht h1 h2, hr])
  · exact firstCause_of_dataCode (by simp [hs, h1, h2]) (by simp [ht h1 h2, hr]) hd

theorem unaryP_firstCause {op : Point → Option Point} (hp : i.pointSources = [ps])
    (ht : ∀ {q}, s.readP ps = some q → (s.TagsAccepted i ↔ op q ≠ none)) (h : unaryP pd ps op s = .next t) :
    FirstCause i s t.err :=
  firstCause_of_point hf hd hp ht (of_next (unaryP_cases op) h)

end PointSources

/-- Every command ends with the code of its first cause. -/
theorem exec_firstCause (h : exec i s = .next t) : FirstCause i s t.err := by
  cases i with
  | nop => exact done_firstCause rfl rfl trivial rfl h
  | wipe => exact done_firstCause rfl rfl trivial rfl (u := s.wipe) h
  | cset b => exact done_firstCause rfl rfl trivial rfl (u := s.writeCf b) h
  | bldl bd => exact done_firstCause rfl rfl trivial rfl h
  | fzero fd => exact done_firstCause rfl rfl trivial rfl h
  | fone fd => exact done_firstCause rfl rfl trivial rfl h
  | fmov fd fs => exact unaryF_firstCause rfl trivial rfl rfl h
  | fadd fd fs1 fs2 => exact binaryF_firstCause rfl trivial rfl rfl h
  | fsub fd fs1 fs2 => exact binaryF_firstCause rfl trivial rfl rfl h
  | fneg fd fs => exact unaryF_firstCause rfl trivial rfl rfl h
  | fmul fd fs1 fs2 => exact binaryF_firstCause rfl trivial rfl rfl h
  | fsq fd fs => exact unaryF_firstCause rfl trivial rfl rfl h
  | fsq2 fd fs => exact unaryF_firstCause rfl trivial rfl rfl h
  | finv fd fs => exact unaryF_firstCause rfl trivial rfl rfl h
  | fcneg fd fs => exact unaryF_firstCause rfl trivial rfl rfl h
  | fcsel fd fs1 fs2 => exact binaryF_firstCause rfl trivial rfl rfl h
  | fisneg fs => exact firstCause_of_field rfl trivial rfl rfl (of_next (testF_cases _) h)
  | fisnz fs => exact firstCause_of_field rfl trivial rfl rfl (of_next (testF_cases _) h)
  | fenc bd fs => exact firstCause_of_field rfl trivial rfl rfl (of_next (storeF_cases _) h)
  | fdec fd bs => exact done_firstCause rfl rfl trivial rfl h
  | pident pd => exact done_firstCause rfl rfl trivial rfl h
  | pbase pd => exact done_firstCause rfl rfl trivial rfl h
  | pmov pd ps => exact unaryP_firstCause rfl rfl rfl (op := some) (fun _ => iff_of_true trivial nofun) h
  | pneg pd ps =>
    exact unaryP_firstCause rfl rfl rfl (op := fun q => some q.negate) (fun _ => iff_of_true trivial nofun) h
  | padd pd ps1 ps2 => exact binaryP_firstCause rfl rfl rfl tagsAccepted_padd_iff h
  | psub pd ps1 ps2 => exact binaryP_firstCause rfl rfl rfl tagsAccepted_psub_iff h
  | pdbl pd ps => exact unaryP_firstCause rfl rfl rfl tagsAccepted_pdbl_iff h
  | pcvt pd ps v => exact unaryP_firstCause rfl rfl rfl tagsAccepted_pcvt_iff h
  | pgetc fd ps k => exact firstCause_of_point rfl rfl rfl tagsAccepted_pgetc_iff (of_next (extractP_cases _) h)
  | penc bd ps => exact firstCause_of_point rfl rfl rfl tagsAccepted_penc_iff (of_next (storeP_cases _) h)
  | pdec pd bs => simp only [exec, execPdec] at h; exact decodeP_firstCause rfl rfl trivial (dataCode_pdec ..) h
  | pdecnv pd bs => simp only [exec, execPdecnv] at h; exact decodeP_firstCause rfl rfl trivial (dataCode_pdecnv ..) h
  | padde pd ps1 ps2 => exact binaryP_firstCause rfl rfl rfl tagsAccepted_padde_iff h
  | smulb pd bs => exact smulb_firstCause h
  | smulv pd ps bs => exact unaryP_firstCause rfl rfl rfl tagsAccepted_smulv_iff h

/-- With bit 255 of the scalar clear a command without another cause ends with OK, or DECODE. -/
theorem dataCode_cases (hrange : ∀ pd bs, i = .smulb pd bs → (s.readB bs).getLsbD 255 = false) :
    dataCode s i = .ok ∨ (dataCode s i = .decode ∧
      ∃ pd bs, (i = .pdec pd bs ∨ i = .pdecnv pd bs) ∧ decodePoint? (s.readB bs) = none) := by
  unfold dataCode
  split
  · next pd bs => exact .inl (if_neg (Bool.eq_false_iff.1 (hrange pd bs rfl)))
  · next pd bs =>
    split_ifs with hnone
    · exact .inr ⟨rfl, pd, bs, .inl rfl, hnone⟩
    · exact .inl rfl
  · next pd bs =>
    split_ifs with hnone
    · exact .inr ⟨rfl, pd, bs, .inr rfl, hnone⟩
    · exact .inl rfl
  · exact .inl rfl

end FirstCauses

/-- Settles O20: the code is that of the first cause, and `dataCode` is that of the causes left to accepted sources. -/
theorem priority : Obligations.Priority := by
  refine ⟨fun w s r hw => ⟨_, runCommand_of_error hw s, rfl⟩, fun w s i hw => ?_⟩
  obtain ⟨t, ht⟩ := exec_next i s
  have hcause := exec_firstCause ht
  refine ⟨t, (runCommand_of_ok hw s).trans ht, hcause.eq_uninit, hcause.eq_tag, fun hs hacc => ?_⟩
  rw [hcause.eq_dataCode hs hacc]
  refine ⟨?_, ?_, fun hrange hdecode => ?_⟩
  · rintro pd bs rfl hbit
    exact (dataCode_smulb ..).trans (if_pos hbit)
  · rintro pd bs (rfl | rfl) hnone
    · exact (dataCode_pdec ..).trans (if_pos hnone)
    · exact (dataCode_pdecnv ..).trans (if_pos hnone)
  · obtain hok | ⟨-, pd, bs, hi, hnone⟩ := dataCode_cases hrange
    · exact hok
    · exact absurd hnone (hdecode pd bs hi)

/-- Settles O21: accepted sources leave the causes of `dataCode`, and a clear bit 255 only DECODE. -/
theorem totality : Obligations.Totality := by
  intro w i s hw hs hacc hrange
  obtain ⟨t, ht⟩ := exec_next i s
  refine ⟨t, (runCommand_of_ok hw s).trans ht, ?_⟩
  rw [(exec_firstCause ht).eq_dataCode hs hacc]
  exact (dataCode_cases hrange).imp_right fun ⟨hcode, pd, bs, hi, _⟩ => ⟨hcode, pd, bs, hi⟩

end Sys2Proof.Proofs

/-! PROOF of the statement of reset (spec/70_reset_and_hazards.md): what the reset event leaves, from every state
(R251). -/

namespace Sys2Proof.Proofs

open Sys2Proof.Machine Sys2Proof.Laws

theorem reset_status : State.reset.status = 0 := by decide

/-- STATUS is a function of cf, STICKY and ERR, which the event resets. -/
@[simp] theorem resetEvent_status (s : State) : s.resetEvent.status = 0 := reset_status

@[simp] theorem resetEvent_readB (s : State) (k : BReg) : s.resetEvent.readB k = 0 := reset_readB k

theorem step_of_reset {s : State} {rest : List HostAccess} (h : s.pending = .reset :: rest) :
    step s = .next (State.resetEvent { s with pending := rest }) := step_of_pending h

/-- In every state the reserved offsets read 0 (R51, R52): they lie past STATUS and below the buffers. -/
theorem memRead_reserved (s : State) {addr n : ℕ} (hlo : 0x08 ≤ addr) (hend : addr + n ≤ 0x80) :
    memRead s addr n = 0 :=
  memRead_eq_zero hend fun ⟨_, haddr⟩ => absurd (haddr ▸ hlo) (by decide)

/-- Settles O8: the event restores the reset state but for the host's side of the bus, which nothing in the table of R251
reads. -/
theorem resetEvent : Obligations.ResetEvent := by
  intro s rest hp
  exact ⟨_, step_of_reset hp, resetEvent_readF _, resetEvent_readP _, resetEvent_readB _, rfl, rfl, rfl,
    (memRead_status _).trans (resetEvent_status _), fun _ _ _ _ => memRead_reserved _⟩

end Sys2Proof.Proofs

/-! PROOFS of the statements of the accesses the window does not define (spec/20_memory.md): the names under which the
model stops on them (R58), and the bus addresses of the window (R50, R60). -/

namespace Sys2Proof.Proofs

open Sys2Proof.Machine Sys2Proof.Laws

/-! ## What the guard answers to an undefined access (R58) -/

section Guard

variable {addr n : Nat} (k : Answer)

theorem guardAccess_badAccessSize (hn : ¬ (n = 1 ∨ n = 2 ∨ n = 4)) :
    guardAccess addr n k = .refused .badAccessSize := by
  unfold guardAccess
  rw [if_pos (by omega)]

theorem guardAccess_outsideWindow (hn : n = 1 ∨ n = 2 ∨ n = 4) (hend : Config.windowBytes < addr + n) :
    guardAccess addr n k = .fault .outsideWindow := by
  unfold guardAccess
  rw [if_neg (by omega), if_pos hend]

theorem guardAccess_misalignedAccess (hn : n = 1 ∨ n = 2 ∨ n = 4) (hend : addr + n ≤ Config.windowBytes)
    (halign : addr % n ≠ 0) : guardAccess addr n k = .refused .misalignedAccess := by
  unfold guardAccess
  rw [if_neg (by omega), if_neg hend.not_gt, if_pos halign]

end Guard

/-- A read or a write passes the guard before it has any effect. -/
theorem hostAccess_eq_guardAccess {a : HostAccess} {addr n : Nat} (s : State)
    (ha : a = .read addr n ∨ ∃ v, a = .write addr n v) : ∃ k, hostAccess a s = guardAccess addr n k := by
  obtain rfl | ⟨v, rfl⟩ := ha
  · exact ⟨.next { s with readData := memRead s addr n }, rfl⟩
  · exact ⟨memWrite s addr n v, rfl⟩

/-- Settles O13: the guard answers all three, whatever the access would do. -/
theorem undefinedAccessNames : Obligations.UndefinedAccessNames := by
  intro s addr n a ha
  obtain ⟨k, hk⟩ := hostAccess_eq_guardAccess s ha
  rw [hk]
  exact ⟨guardAccess_badAccessSize k, guardAccess_outsideWindow k, guardAccess_misalignedAccess k⟩

/-! ## Bus addresses (R50, R60) -/

@[simp] theorem windowOffset_base_add (base off : Nat) : windowOffset base (base + off) = off := by
  rw [windowOffset, if_pos (Nat.le_add_right base off), Nat.add_sub_cancel_left]

theorem windowOffset_below {base addr : Nat} (h : addr < base) : windowOffset base addr = Config.windowBytes :=
  if_neg h.not_ge

/-- An access of any size from an address below the window ends past the window. -/
theorem windowOffset_below_add {base addr n : Nat} (h : addr < base) (hn : n = 1 ∨ n = 2 ∨ n = 4) :
    Config.windowBytes < windowOffset base addr + n := by
  rw [windowOffset_below h]
  omega

/-- Settles O16: BASE cancels in the offset, and an address below the window has an offset outside it. -/
theorem windowAddress : Obligations.WindowAddress := by
  intro base s n v
  refine ⟨fun off => ?_, fun addr hbelow hn => ?_⟩
  · simp only [HostAccess.atBus, windowOffset_base_add, and_self]
  · have hend := windowOffset_below_add hbelow hn
    exact ⟨guardAccess_outsideWindow _ hn hend, guardAccess_outsideWindow _ hn hend⟩

end Sys2Proof.Proofs
